-- ==== Sys2Proof/Word.lean ====
section
/-! DEFINITION. The widths of NMX's data (00_scope.md R10, R13; 10_state.md R46 to R55). -/

namespace Sys2Proof

/-- A host data word, DW = 32 bits (R10). -/
abbrev Word := BitVec 32

/-- One byte of the NMX window (R69). -/
abbrev Byte := BitVec 8

/-- An operand, W = 16 bits unsigned (R10, R46). -/
abbrev Operand := BitVec 16

/-- One 4-bit digit (R12). -/
abbrev Nibble := BitVec 4

/-- An accumulator, ACC_W = 48 bits two's complement (R10, R49). -/
abbrev Accum := BitVec 48

/-- A 64-bit output value (R52) or timestamp, TS_W = 64 (R10). -/
abbrev Dword := BitVec 64

end Sys2Proof
end

