-- ==== Sys2Proof/Syntax.lean ====
section
/-! DEFINITION. The commands of NMX (30_encoding.md R92, R102): one constructor per row of the opcode table.
An operand is the unsigned number its field spells (R98). -/

namespace Sys2Proof

/-- The mode of a RUN, field D (R97). -/
inductive RunMode where
  /-- D = 0: the schedule and the event log only. -/
  | timing
  /-- D = 1: the compute and activation stages also work on IBUF and OBUF. -/
  | data
deriving DecidableEq, Repr

/-- One command (R102). -/
inductive Instr where
  /-- NOP (R220). -/
  | nop
  /-- LOAD with the declared shape ROWS, COLS (R93, R144). -/
  | load (rows cols : Nat)
  /-- COMPUTE with the declared length LEN and the slots ISLOT, OSLOT (R94, R95, R147). -/
  | compute (len islot oslot : Nat)
  /-- ACT with the variant code VAR and the slot OSLOT (R95, R96, R212). -/
  | act (var oslot : Nat)
  /-- DECOMP (R123). -/
  | decomp
  /-- REASM (R124). -/
  | reasm
  /-- RUN with its mode D (R97, R179). -/
  | run (mode : RunMode)
deriving DecidableEq, Repr

end Sys2Proof
end

