-- ==== Sys2Proof/WellFormed.lean ====
section
/-! DEFINITION. Which commands a command word can spell: every operand fits its field (30_encoding.md R92 to R96).
An operand that does not fit is an assembly error, not a word (R105). -/

namespace Sys2Proof

/-- Every operand of the command fits its field (R92). -/
def Instr.wellFormed : Instr → Bool
  | .nop => true
  | .load rows cols => decide (rows < 4096) && decide (cols < 4096)
  | .compute len islot oslot => decide (len < 4096) && decide (islot < 256) && decide (oslot < 256)
  | .act var oslot => decide (var < 4) && decide (oslot < 256)
  | .decomp => true
  | .reasm => true
  | .run _ => true

end Sys2Proof
end

