-- ==== Sys2Proof/Decode.lean ====
section
/-! DEFINITION. Decoding of command words, total on all 2^32 words (30_encoding.md R103), and the encoder
(R92). -/

namespace Sys2Proof

/-- Why a word encodes no command. Either way the command completes with E_ILLEGAL (R100, R101, R221). -/
inductive DecodeReject where
  /-- OPC is in 0x7 to 0xF (R101). -/
  | reservedOpcode
  /-- A bit that R92 shows as 0 (reserved) is set (R100). -/
  | reservedBit
deriving DecidableEq, Repr

/-- OPC, bits 31:28 (R91). -/
def opcOf (w : Word) : BitVec 4 := w.extractLsb' 28 4

/-- The number that the `n` bits of `w` from bit `lo` up spell (R12, R98). -/
def fieldOf (w : Word) (lo n : Nat) : Nat := (w.extractLsb' lo n).toNat

/-- `i` if every reserved bit is 0, else the rejection (R100). -/
def unlessReserved (reserved : Nat) (i : Instr) : Except DecodeReject Instr :=
  if reserved = 0 then .ok i else .error .reservedBit

/-- The command that a word encodes (R103). -/
def decode (w : Word) : Except DecodeReject Instr :=
  match (opcOf w).toNat with
  | 0 => unlessReserved (fieldOf w 0 28) .nop
  | 1 => unlessReserved (fieldOf w 24 4) (.load (fieldOf w 12 12) (fieldOf w 0 12))
  | 2 => .ok (.compute (fieldOf w 16 12) (fieldOf w 8 8) (fieldOf w 0 8))
  | 3 => unlessReserved (fieldOf w 10 18) (.act (fieldOf w 8 2) (fieldOf w 0 8))
  | 4 => unlessReserved (fieldOf w 0 28) .decomp
  | 5 => unlessReserved (fieldOf w 0 28) .reasm
  | 6 => unlessReserved (fieldOf w 0 27) (.run (if fieldOf w 27 1 = 1 then .data else .timing))
  | _ => .error .reservedOpcode

/-- The number `v` in the `n` bits from bit `lo` up (R12, R92). -/
def fieldAt (lo n v : Nat) : Nat := v % 2 ^ n * 2 ^ lo

/-- The word with an opcode in bits 31:28 and its format's fields below it; every other bit is 0 (R91, R92). -/
def commandWord (opc fields : Nat) : Word := BitVec.ofNat 32 (fieldAt 28 4 opc + fields)

/-- The number in field D of a RUN word (R97). -/
def modeNumber : RunMode → Nat
  | .timing => 0
  | .data => 1

/-- The word of a well-formed command (R92, R102). -/
def encode : Instr → Word
  | .nop => commandWord 0x0 0
  | .load rows cols => commandWord 0x1 (fieldAt 12 12 rows + fieldAt 0 12 cols)
  | .compute len islot oslot => commandWord 0x2 (fieldAt 16 12 len + fieldAt 8 8 islot + fieldAt 0 8 oslot)
  | .act var oslot => commandWord 0x3 (fieldAt 8 2 var + fieldAt 0 8 oslot)
  | .decomp => commandWord 0x4 0
  | .reasm => commandWord 0x5 0
  | .run mode => commandWord 0x6 (fieldAt 27 1 (modeNumber mode))

/-- What the assembler makes of a command: its word, or an assembly error where an operand does not fit its
field (R105). -/
def assemble (i : Instr) : Option Word := if i.wellFormed then some (encode i) else none

/-- The word whose bits are `w`, of which the table gives the low `nbits`; every bit above them is 0. -/
def tableWord (nbits w : Nat) : Word := BitVec.ofNat 32 (w % 2 ^ nbits)

/-- The command the decoder reads from a row's bits. A command is one 32-bit word (R90), so `nbits` is 32. -/
def decodeTableWord (nbits w : Nat) : Option Instr :=
  match decode (tableWord nbits w) with
  | .ok i => some i
  | .error _ => none

end Sys2Proof
end

