-- ==== Sys2Proof/Config.lean ====
section
/-! DEFINITION. What one instance of NMX fixes (00_scope.md R10, 92_eei_decisions.md D46), the constants every
instance shares, and the address map's bases (20_memory.md R62). No value of the spec is left to a free value:
the open parameters are carried by the state as `State.params`, and statements hold for every legal choice. -/

namespace Sys2Proof

/-- The four open parameters of an instance (R10, D46). They are fixed when the instance is built (R56):
no step changes them. -/
structure Params where
  /-- R, the rows of the weight array and the length of an input vector. -/
  rows : Nat
  /-- C, the cells (columns) of the weight array and the length of an output vector. -/
  cols : Nat
  /-- NSLOT, the number of input slots and of output slots. -/
  nslot : Nat
  /-- EVMAX, the capacity of the event log in records. -/
  evmax : Nat
deriving DecidableEq, Repr

/-- The bounds R10 puts on the parameters. -/
abbrev Params.legal (p : Params) : Prop :=
  (1 ≤ p.rows ∧ p.rows ≤ 2048) ∧ (1 ≤ p.cols ∧ p.cols ≤ 2048) ∧
    (1 ≤ p.nslot ∧ p.nslot ≤ 256) ∧ (1 ≤ p.evmax ∧ p.evmax ≤ 524288)

/-- R·C, the number of cells of the weight array and of words of WBUF (R46, R50). -/
abbrev Params.cells (p : Params) : Nat := p.rows * p.cols

namespace Config

/-- The instance `State.reset` is built with: the one 95_test_vectors.md uses (D46). DESIGN CHOICE, unsafe
(notes/assumptions/1.md): no statement rests on it. -/
def built : Params := { rows := 2, cols := 2, nslot := 4, evmax := 64 }

/-- LMAX, the most logical layers of a chunk (R10). -/
abbrev lmax : Nat := 8

/-- BUF_CAP, the slots of the fetch-to-compute buffer (R10). -/
abbrev bufCap : Nat := 1

/-- The value of the ID register (R24). -/
def idValue : Word := 0x4E4D5801#32

/-- W and ACC_W as PARAM_MEM reports them (R26). -/
def operandWidth : BitVec 8 := 0x10#8

/-- See `operandWidth`. -/
def accWidth : BitVec 8 := 0x30#8

/-- The control registers occupy the offsets below this one (R62). -/
abbrev csrEnd : Nat := 0x1000

/-- The first byte of WBUF (R62, R63). -/
abbrev wbufBase : Nat := 0x01000000

/-- The first byte of the WARR region (R62, R64). -/
abbrev warrBase : Nat := 0x02000000

/-- The first byte of IBUF (R62, R65). -/
abbrev ibufBase : Nat := 0x03000000

/-- The first byte of OBUF (R62, R66). -/
abbrev obufBase : Nat := 0x04000000

/-- The first byte of EVLOG (R62, R67). -/
abbrev evlogBase : Nat := 0x05000000

end Config

end Sys2Proof
end

