-- ==== Sys2Proof/Machine/State.lean ====
section
/-! DEFINITION. The state of NMX (10_state.md), the host's side of the bus as data (20_memory.md R60, R68), the
reasons a step stops, and the state after hardware reset (70_reset_and_hazards.md R270). -/

namespace Sys2Proof.Machine

/-- The direction of a host access, bus_we (R60). -/
inductive Dir where
  | read
  | write
deriving DecidableEq, Repr

/-- One host bus access, one transaction (R60). -/
structure Access where
  /-- bus_we. -/
  dir : Dir
  /-- bus_addr, the byte offset within the NMX window (R61). -/
  addr : BitVec 32
  /-- bus_size, the log2 of the access size in bytes. -/
  size : BitVec 2
  /-- bus_wdata; it has no meaning for a read. -/
  wdata : Word
deriving DecidableEq, Repr

/-- What NMX answers on the bus (R60). A bus error is a `Fault` (R71). -/
inductive Response where
  /-- bus_ready = 1 to a read, with bus_rdata. -/
  | data (rdata : Word)
  /-- bus_ready = 1 to a write. -/
  | written
  /-- bus_ready = 0: the access is held (R68). -/
  | held
deriving DecidableEq, Repr

/-- What comes to NMX from outside, one event a step; see `State.inputs`. -/
inductive Input where
  /-- The host offers an access. -/
  | access (a : Access)
  /-- Time passes with no new access: the running command completes, or else the held access does. The time a
  command takes is implementation-defined (R280), so it is an input. -/
  | elapse
  /-- rst_n = 0, at any time (R271). -/
  | hardwareReset
deriving DecidableEq, Repr

/-- The five stages of the pipeline, S0 to S4 (R170). -/
inductive Stage where
  | fetch
  | compute
  | activate
  | transfer
  | detect
deriving DecidableEq, Repr

/-- One value for each stage: DUR0 to DUR4 (R40) and FREE[0..4] (R54). -/
structure PerStage (α : Type) where
  fetch : α
  compute : α
  activate : α
  transfer : α
  detect : α
deriving DecidableEq, Repr

/-- A NibbleVector of ND = 4 digits; digit 0 is the most significant (R12, R47, R120). -/
structure NibbleVector where
  d0 : Nibble
  d1 : Nibble
  d2 : Nibble
  d3 : Nibble
deriving DecidableEq, Repr

/-- The error codes (R231). -/
inductive ErrorCode where
  /-- E_NONE: the reset value only. -/
  | none
  /-- E_RANGE. -/
  | range
  /-- E_SHAPE. -/
  | shape
  /-- E_SLOT. -/
  | slot
  /-- E_NOARRAY. -/
  | noArray
  /-- E_CFG_VARIANT. -/
  | cfgVariant
  /-- E_CFG_DURATION. -/
  | cfgDuration
  /-- E_CFG_COUNT. -/
  | cfgCount
  /-- E_CFG_LAYERS. -/
  | cfgLayers
  /-- E_CFG_CAPACITY. -/
  | cfgCapacity
  /-- E_ILLEGAL. -/
  | illegal
deriving DecidableEq, Repr

/-- The stored bytes of WBUF, IBUF, OBUF and EVLOG, each at its offset in the NMX window (R62). An offset that is
not listed holds no value: nothing has written it since hardware reset (R15, R270). -/
abbrev Memory := List Host.Cell

/-- The canonical form: the listed offsets rise strictly. An unlisted offset reads as no value, so no entry can
repeat what it reads as, and equal memories are equal lists. -/
abbrev Memory.wf (m : Memory) : Prop := m.Pairwise (fun x y => x.1 < y.1)

/-- The state of one NMX instance and of the host's side of its bus. -/
structure State where
  /-- R, C, NSLOT and EVMAX, fixed when the instance is built (R10, R56). -/
  params : Params
  /-- STATUS.BUSY (R29, R55). -/
  busy : Bool
  /-- STATUS.DONE (R29). -/
  done : Bool
  /-- STATUS.ERR (R29). -/
  err : Bool
  /-- STATUS.WVALID (R29, R48). -/
  wvalid : Bool
  /-- IE.DONE_IE (R31). -/
  doneIe : Bool
  /-- IE.ERR_IE (R31). -/
  errIe : Bool
  /-- ERR_CODE.CODE (R32). -/
  errCode : ErrorCode
  /-- ERR_CODE.OPC (R32). -/
  errOpc : BitVec 4
  /-- ERR_INDEX (R33). -/
  errIndex : Word
  /-- ERR_VALUE (R34). -/
  errValue : Word
  /-- ERR_LIMIT (R35). -/
  errLimit : Word
  /-- CODEC_IN (R36). -/
  codecIn : Word
  /-- CODEC_NIB (R37). -/
  codecNib : Word
  /-- CODEC_OUT (R38). -/
  codecOut : Word
  /-- EVCOUNT (R39). -/
  evcount : Word
  /-- DUR0 to DUR4 (R40). -/
  dur : PerStage Word
  /-- CHUNKS (R41). -/
  chunks : Word
  /-- IMAGES (R42). -/
  images : Word
  /-- LAYERS (R43). -/
  layers : Word
  /-- ACTV (R44). -/
  actv : Word
  /-- WARR, row-major: cell (r, c) is element r·C + c (R46, R64). Empty until a LOAD succeeds. -/
  warr : List Operand
  /-- WNIB, in the order of `warr`: digit j of cell (r, c) is nibble column 4c + j of row r (R47). -/
  wnib : List NibbleVector
  /-- ACC[0..C-1] (R49). -/
  acc : List Accum
  /-- WBUF, IBUF, OBUF and EVLOG (R50 to R53). -/
  mem : Memory
  /-- FREE[0..4] (R54). -/
  free : PerStage Dword
  /-- OCC (R54). -/
  occ : Nat
  /-- ACCEPT (R54). -/
  accept : Dword
  /-- CMDLATCH, the word of the running command (R55). -/
  cmdLatch : Word
  /-- The MODEL's own: what comes from outside, in the order in which it comes (R7, R74). Each step takes at most
  the first event (notes/assumptions/2.md). -/
  inputs : List Input
  /-- The MODEL's own: the access that NMX holds (bus_ready = 0, R68). -/
  held : Option Access
  /-- The MODEL's own: NMX's latest answer on the bus (R60). -/
  lastResponse : Option Response
deriving DecidableEq, Repr

/-- Why a step stops with a fault. Both are faults of the MODEL that the spec names; the hardware goes on. -/
inductive Fault where
  /-- Raised by a host access to an unmapped, past-the-end or undefined-register offset, or of a wrong size or
  alignment (R70, R71). NMX answers bus_err = 1 with read data `rdata` = 0 and no state changes. Safe: the model
  stops where the hardware goes on with the state as it was. -/
  | busError (a : Access) (rdata : Word)
  /-- Raised by a host read, or by a LOAD, COMPUTE, ACT or data-mode RUN, of a word that nothing has written since
  hardware reset, at offset `offset`, and by a host read of the WARR region while WVALID = 0 (R15, R64, R67).
  Safe: the model stops where the hardware goes on with a value nobody has defined. -/
  | uninitRead (offset : Nat)
deriving DecidableEq, Repr

/-- Why a step gives no meaning. -/
inductive Refusal where
  /-- Raised by an arm of exec whose command has no meaning yet; no arm of this model raises it. Safe. -/
  | notModelled (mnemonic : String)
deriving DecidableEq, Repr

/-- What a step or a command answers. -/
abbrev Result := Host.Outcome State Fault Refusal

/-- Every stage at one value. -/
abbrev PerStage.all {α : Type} (x : α) : PerStage α := ⟨x, x, x, x, x⟩

/-- An instance with the parameters `p` right after hardware reset (R270, R271, R273). Where 10_state.md says
"unspecified", a register takes 0 (DESIGN CHOICE, unsafe, notes/assumptions/3.md: ACC, FREE, OCC, ACCEPT, CMDLATCH),
and a RAM buffer and the array hold nothing (R15). -/
def State.resetOf (p : Params) : State where
  params := p
  busy := false
  done := false
  err := false
  wvalid := false
  doneIe := false
  errIe := false
  errCode := .none
  errOpc := 0#4
  errIndex := 0#32
  errValue := 0#32
  errLimit := 0#32
  codecIn := 0#32
  codecNib := 0#32
  codecOut := 0#32
  evcount := 0#32
  dur := .all 0#32
  chunks := 0#32
  images := 0#32
  layers := 0#32
  actv := 0#32
  warr := []
  wnib := []
  acc := List.replicate p.cols 0#48
  mem := []
  free := .all 0#64
  occ := 0
  accept := 0#64
  cmdLatch := 0#32
  inputs := []
  held := none
  lastResponse := none

/-- The machine right after hardware reset: the instance `Config.built`, with nothing coming from outside. -/
def State.reset : State := State.resetOf Config.built

end Sys2Proof.Machine
end

