-- ==== Sys2Proof/Machine/Ops.lean ====
section
/-! DEFINITION. The operations every command and host access shares: the window's stored bytes (20_memory.md R62 to
R69), the values of each stage, how a command ends, with success or with an error (60_exceptions.md R234 to R237),
and the two resets (70_reset_and_hazards.md R270 to R273). -/

namespace Sys2Proof.Machine

/-! ## Memory -/

/-- The byte stored at an offset, if anything has written it since hardware reset (R15). -/
def Memory.readByte : Memory → Nat → Option Byte
  | [], _ => none
  | (k, b) :: m, a => if k = a then some b else Memory.readByte m a

/-- Bytes laid out from an offset up. -/
def bytesAt : Nat → List Byte → Memory
  | _, [] => []
  | a, b :: bs => (a, b) :: bytesAt (a + 1) bs

/-- Store bytes from an offset up: what lies below, the bytes, what lies above. -/
def Memory.writeBytes (m : Memory) (a : Nat) (bs : List Byte) : Memory :=
  m.filter (fun c => decide (c.1 < a)) ++ bytesAt a bs ++
    m.filter (fun c => decide (a + bs.length ≤ c.1))

/-- The four bytes of a word, the least significant at the lowest offset (R69). -/
def wordBytes (w : Word) : List Byte :=
  [w.extractLsb' 0 8, w.extractLsb' 8 8, w.extractLsb' 16 8, w.extractLsb' 24 8]

/-- The word at an offset (R69). -/
def Memory.readWord (m : Memory) (a : Nat) : Option Word :=
  match Memory.readByte m a, Memory.readByte m (a + 1), Memory.readByte m (a + 2), Memory.readByte m (a + 3) with
  | some b0, some b1, some b2, some b3 => some (b3 ++ b2 ++ b1 ++ b0)
  | _, _, _, _ => none

/-- Store consecutive words from an offset up. -/
def Memory.writeWords (m : Memory) (a : Nat) (ws : List Word) : Memory :=
  Memory.writeBytes m a (ws.flatMap wordBytes)

/-- The two words of a 64-bit value, bits 31:0 first (R66, R69). -/
def dwordWords (d : Dword) : List Word := [d.extractLsb' 0 32, d.extractLsb' 32 32]

/-- The 64-bit value in the two words at an offset (R66). -/
def Memory.readDword (m : Memory) (a : Nat) : Option Dword :=
  match Memory.readWord m a, Memory.readWord m (a + 4) with
  | some lo, some hi => some (hi ++ lo)
  | _, _ => none

/-- Store consecutive 64-bit values from an offset up (R66). -/
def Memory.writeDwords (m : Memory) (a : Nat) (ds : List Dword) : Memory :=
  Memory.writeWords m a (ds.flatMap dwordWords)

/-! ## Offsets of the buffers' elements -/

/-- The offset of WBUF word i (R63). -/
def wbufAddr (i : Nat) : Nat := Config.wbufBase + 4 * i

/-- The offset of WARR word i (R64). -/
def warrAddr (i : Nat) : Nat := Config.warrBase + 4 * i

/-- The offset of IBUF[s][r] (R65). -/
def ibufAddr (p : Params) (s r : Nat) : Nat := Config.ibufBase + 4 * (s * p.rows + r)

/-- The offset of OBUF[s][c] (R66). -/
def obufAddr (p : Params) (s c : Nat) : Nat := Config.obufBase + 8 * (s * p.cols + c)

/-- The offset of word k of EVLOG record n (R67). -/
def evlogAddr (n k : Nat) : Nat := Config.evlogBase + 32 * n + 4 * k

/-- An offset is one of the `words` words in use from `base` up (R62). -/
def inUse (base words off : Nat) : Bool := decide (base ≤ off) && decide (off < base + 4 * words)

/-- An offset belongs to WBUF, IBUF or OBUF: RAM the host may write (R62). -/
def inHostRam (p : Params) (off : Nat) : Bool :=
  inUse Config.wbufBase p.cells off || inUse Config.ibufBase (p.nslot * p.rows) off ||
    inUse Config.obufBase (p.nslot * p.cols * 2) off

/-- An offset belongs to EVLOG (R62). -/
def inEvlog (p : Params) (off : Nat) : Bool := inUse Config.evlogBase (p.evmax * 8) off

/-- An offset belongs to the WARR region (R62). -/
def inWarr (p : Params) (off : Nat) : Bool := inUse Config.warrBase p.cells off

/-! ## One value for each stage -/

/-- The value of a stage. -/
def PerStage.get {α : Type} (f : PerStage α) : Stage → α
  | .fetch => f.fetch
  | .compute => f.compute
  | .activate => f.activate
  | .transfer => f.transfer
  | .detect => f.detect

/-- Change the value of one stage. -/
def PerStage.set {α : Type} (f : PerStage α) (g : Stage) (x : α) : PerStage α :=
  match g with
  | .fetch => { f with fetch := x }
  | .compute => { f with compute := x }
  | .activate => { f with activate := x }
  | .transfer => { f with transfer := x }
  | .detect => { f with detect := x }

/-- Change every stage's value. -/
def PerStage.map {α β : Type} (h : α → β) (f : PerStage α) : PerStage β :=
  ⟨h f.fetch, h f.compute, h f.activate, h f.transfer, h f.detect⟩

/-! ## How a command ends -/

/-- An error with its context (R232). -/
structure CmdError where
  code : ErrorCode
  index : Word
  value : Word
  limit : Word
deriving DecidableEq, Repr

/-- Why a command's checks stop it before it writes any state (R235). -/
inductive Stop where
  /-- `raise` of R14: the command fails. -/
  | command (e : CmdError)
  /-- The command reads a word at `offset` that nothing has written since hardware reset (R15). -/
  | uninit (offset : Nat)
deriving DecidableEq, Repr

/-- `raise E_code(index, value, limit)` of R14. -/
def raise {α : Type} (code : ErrorCode) (index value limit : Word) : Except Stop α :=
  .error (.command { code := code, index := index, value := value, limit := limit })

/-- A number as a 32-bit context value. -/
abbrev ctx (n : Nat) : Word := BitVec.ofNat 32 n

/-- Error entry: what the completion of a failing command does, and nothing else (R236). -/
def failCommand (e : CmdError) (s : State) : State :=
  { s with
    errOpc := s.cmdLatch.extractLsb' 28 4
    errCode := e.code
    errIndex := e.index
    errValue := e.value
    errLimit := e.limit
    err := true
    done := true
    busy := false }

/-- What the completion of a successful command does after the command's own writes (R237). -/
def succeed (s : State) : State := { s with done := true, busy := false }

/-- End a command: `r` is what its checks and writes make of the state `s` it started in. A failure leaves `s` but
for R236's changes, whatever the command would have written (R235). -/
def finish (s : State) (r : Except Stop State) : Result :=
  match r with
  | .ok t => .next (succeed t)
  | .error (.command e) => .next (failCommand e s)
  | .error (.uninit off) => .fault (.uninitRead off)

/-! ## The host's side -/

/-- The events still to come. -/
def takeInputs (rest : List Input) (s : State) : State := { s with inputs := rest }

/-- NMX no longer holds an access (R68). -/
def releaseHeld (s : State) : State := { s with held := none }

/-! ## Return from an error, and reset -/

/-- A host write to STATUS: writing 1 clears DONE and ERR; nothing else changes (R29). With both bits set it is the
host's acknowledgement of an error, the only return from one there is (R238). -/
def clearFlags (v : Word) (s : State) : State :=
  { s with done := s.done && !v.getLsbD 1, err := s.err && !v.getLsbD 2 }

/-- Soft reset: every control register takes its reset value; RAM, array, accumulators and the scheduler's state
stay (R272). -/
def softReset (s : State) : State :=
  { s with
    busy := false, done := false, err := false, wvalid := false
    doneIe := false, errIe := false
    errCode := .none, errOpc := 0#4, errIndex := 0#32, errValue := 0#32, errLimit := 0#32
    codecIn := 0#32, codecNib := 0#32, codecOut := 0#32
    evcount := 0#32
    dur := .all 0#32, chunks := 0#32, images := 0#32, layers := 0#32, actv := 0#32 }

/-- Hardware reset: everything NMX holds is as after power-on, a held access is dropped (R270, R271); what comes
from outside afterwards is not NMX's. -/
def hardwareReset (later : List Input) (s : State) : State :=
  { State.resetOf s.params with inputs := later }

end Sys2Proof.Machine
end

