-- ==== Sys2Proof/Machine/Flags.lean ====
section
/-! DEFINITION. The status flags, the error code's bits and the interrupt line (10_state.md R29, R31, R32;
60_exceptions.md R231, R240). No command computes an arithmetic flag (R29). -/

namespace Sys2Proof.Machine

/-- STATUS as the host reads it: WVALID, ERR, DONE, BUSY in bits 3:0, the rest 0 (R29). -/
def statusWord (s : State) : Word :=
  0#28 ++ BitVec.ofBool s.wvalid ++ BitVec.ofBool s.err ++ BitVec.ofBool s.done ++ BitVec.ofBool s.busy

/-- IE as the host reads it: ERR_IE, DONE_IE in bits 1:0, the rest 0 (R31). -/
def ieWord (s : State) : Word := 0#30 ++ BitVec.ofBool s.errIe ++ BitVec.ofBool s.doneIe

/-- CODE, the number of an error code (R231). -/
def errorNumber : ErrorCode → BitVec 8
  | .none => 0x00#8
  | .range => 0x01#8
  | .shape => 0x02#8
  | .slot => 0x03#8
  | .noArray => 0x04#8
  | .cfgVariant => 0x10#8
  | .cfgDuration => 0x11#8
  | .cfgCount => 0x12#8
  | .cfgLayers => 0x13#8
  | .cfgCapacity => 0x14#8
  | .illegal => 0x20#8

/-- ERR_CODE as the host reads it: OPC in bits 11:8, CODE in bits 7:0, the rest 0 (R32). -/
def errCodeWord (s : State) : Word := 0#20 ++ s.errOpc ++ errorNumber s.errCode

/-- The interrupt output, a function of the state at every instant (R240). -/
def irq (s : State) : Bool := (s.done && s.doneIe) || (s.err && s.errIe)

end Sys2Proof.Machine
end

