-- ==== Sys2Proof/Machine/Bus.lean ====
section
/-! DEFINITION. The host's accesses: the control registers (10_state.md R22 to R45), the address map (20_memory.md
R62 to R71) and the busy hold (R68). -/

namespace Sys2Proof.Machine

/-- The control registers (R23). -/
inductive Reg where
  | id | paramRc | paramMem | paramEv
  | cmd | status | ctrl | ie
  | errCode | errIndex | errValue | errLimit
  | codecIn | codecNib | codecOut | evcount
  | dur (g : Stage)
  | chunks | images | layers | actv
deriving DecidableEq, Repr

/-- The register map (R23). -/
def registerMap : List (Nat × Reg) :=
  [(0x000, .id), (0x004, .paramRc), (0x008, .paramMem), (0x00C, .paramEv),
   (0x010, .cmd), (0x014, .status), (0x018, .ctrl), (0x01C, .ie),
   (0x020, .errCode), (0x024, .errIndex), (0x028, .errValue), (0x02C, .errLimit),
   (0x030, .codecIn), (0x034, .codecNib), (0x038, .codecOut), (0x03C, .evcount),
   (0x040, .dur .fetch), (0x044, .dur .compute), (0x048, .dur .activate), (0x04C, .dur .transfer),
   (0x050, .dur .detect), (0x054, .chunks), (0x058, .images), (0x05C, .layers), (0x060, .actv)]

/-- The register at an offset, if there is one (R23). -/
def registerAt (off : Nat) : Option Reg := registerMap.lookup off

/-- What a read of a control register returns (R22, R24 to R44). No read has a side effect (R72). -/
def readReg (s : State) : Reg → Word
  | .id => Config.idValue
  | .paramRc => BitVec.ofNat 16 s.params.cols ++ BitVec.ofNat 16 s.params.rows
  | .paramMem => Config.operandWidth ++ Config.accWidth ++ BitVec.ofNat 16 s.params.nslot
  | .paramEv => ctx s.params.evmax
  | .cmd => 0#32
  | .status => statusWord s
  | .ctrl => 0#32
  | .ie => ieWord s
  | .errCode => errCodeWord s
  | .errIndex => s.errIndex
  | .errValue => s.errValue
  | .errLimit => s.errLimit
  | .codecIn => s.codecIn
  | .codecNib => s.codecNib
  | .codecOut => s.codecOut
  | .evcount => s.evcount
  | .dur g => s.dur.get g
  | .chunks => s.chunks
  | .images => s.images
  | .layers => s.layers
  | .actv => s.actv

/-- Accept a command: it runs until its completion clears BUSY (R28, R55). -/
def acceptCommand (v : Word) (s : State) : State := { s with busy := true, cmdLatch := v }

/-- What a write to a control register does (R22, R28 to R44). A write to a read-only register is ignored; a write to
a RW register stores all 32 bits unchecked. -/
def writeReg (v : Word) (s : State) : Reg → State
  | .id => s
  | .paramRc => s
  | .paramMem => s
  | .paramEv => s
  | .cmd => acceptCommand v s
  | .status => clearFlags v s
  | .ctrl => if v.getLsbD 0 then softReset s else s
  | .ie => { s with doneIe := v.getLsbD 0, errIe := v.getLsbD 1 }
  | .errCode => s
  | .errIndex => s
  | .errValue => s
  | .errLimit => s
  | .codecIn => { s with codecIn := v }
  | .codecNib => { s with codecNib := v }
  | .codecOut => s
  | .evcount => s
  | .dur g => { s with dur := s.dur.set g v }
  | .chunks => { s with chunks := v }
  | .images => { s with images := v }
  | .layers => { s with layers := v }
  | .actv => { s with actv := v }

/-- What stands at an offset of the window (R62). -/
inductive Place where
  /-- A control register (R23). -/
  | reg (r : Reg)
  /-- A word of WBUF, IBUF or OBUF (R63, R65, R66). -/
  | ram (off : Nat)
  /-- Word i of the WARR region (R64). -/
  | warr (i : Nat)
  /-- A word of EVLOG (R67). -/
  | log (off : Nat)
deriving DecidableEq, Repr

/-- The place at an offset; none where nothing is in use (R62, R71). -/
def placeAt (p : Params) (off : Nat) : Option Place :=
  if off < Config.csrEnd then (registerAt off).map .reg
  else if inHostRam p off then some (.ram off)
  else if inWarr p off then some (.warr ((off - Config.warrBase) / 4))
  else if inEvlog p off then some (.log off)
  else none

/-- Every host access is one aligned 32-bit word (R70). -/
def isWordAccess (a : Access) : Bool := decide (a.size = 2#2) && decide (a.addr.toNat % 4 = 0)

/-- The place an access reaches; none is a bus error (R70, R71). -/
def placeOf (p : Params) (a : Access) : Option Place :=
  if isWordAccess a then placeAt p a.addr.toNat else none

/-- What a read of a place returns, if it has a value. WARR has one while WVALID = 1 (R64). -/
def readPlace (s : State) : Place → Option Word
  | .reg r => some (readReg s r)
  | .ram off => Memory.readWord s.mem off
  | .warr i => if s.wvalid then s.warr[i]?.map (BitVec.setWidth 32) else none
  | .log off => Memory.readWord s.mem off

/-- What a write to a place does: WARR and EVLOG ignore it (R64, R67). -/
def writePlace (v : Word) (s : State) : Place → State
  | .reg r => writeReg v s r
  | .ram off => { s with mem := Memory.writeWords s.mem off [v] }
  | .warr _ => s
  | .log _ => s

/-- NMX answers the host. -/
def respond (r : Response) (s : State) : State := { s with lastResponse := some r }

/-- Complete a host access (R62 to R72). -/
def performAccess (a : Access) (s : State) : Result :=
  match placeOf s.params a with
  | none => .fault (.busError a 0#32)
  | some pl =>
    match a.dir with
    | .read =>
      match readPlace s pl with
      | some v => .next (respond (.data v) s)
      | none => .fault (.uninitRead a.addr.toNat)
    | .write => .next (respond .written (writePlace a.wdata s pl))

/-- The accesses that complete while a command runs: reads of ID, PARAM_RC, PARAM_MEM, PARAM_EV, STATUS and IE, and
writes of STATUS and IE (R68). -/
def passesBusy (a : Access) : Bool :=
  isWordAccess a &&
    match a.dir, registerAt a.addr.toNat with
    | .read, some .id => true
    | .read, some .paramRc => true
    | .read, some .paramMem => true
    | .read, some .paramEv => true
    | _, some .status => true
    | _, some .ie => true
    | _, _ => false

/-- NMX holds an access: bus_ready = 0 (R68). -/
def holdAccess (a : Access) (s : State) : State := respond .held { s with held := some a }

end Sys2Proof.Machine
end

