-- ==== Sys2Proof/Machine/Control.lean ====
section
/-! DEFINITION. The control commands: NOP, and the outcome of a word that encodes no command (44_control.md). -/

namespace Sys2Proof.Machine

/-- NOP: complete with no effect other than DONE (R220). -/
def execNop (s : State) : Result := finish s (.ok s)

/-- A word that encodes no command completes with E_ILLEGAL and records the word (R103, R221). -/
def execIllegal (s : State) : Result := finish s (raise .illegal (ctx 0) s.cmdLatch (ctx 0))

end Sys2Proof.Machine
end

