-- ==== Sys2Proof/Machine/Operands.lean ====
section
/-! DEFINITION. The operand forms: a command's operands are read from fixed places (30_encoding.md R99), each with
the checks its command makes (41_mac_array.md R144, R147; 42_scheduler.md R180; 43_activation.md R212). -/

namespace Sys2Proof.Machine

/-- Read `n` operand words from `base`, elements `i` up, in ascending order. The first word that is ≥ 2^16 raises
E_RANGE with its element index, the first that nothing has written is an uninitialised read (R15, R144, R147,
R180). -/
def readOperands (m : Memory) (base : Nat) : Nat → Nat → Except Stop (List Operand)
  | 0, _ => .ok []
  | n + 1, i =>
    match Memory.readWord m (base + 4 * i) with
    | none => .error (.uninit (base + 4 * i))
    | some w =>
      if w.extractLsb' 16 16 = 0#16 then
        match readOperands m base n (i + 1) with
        | .ok xs => .ok (w.setWidth 16 :: xs)
        | .error e => .error e
      else raise .range (ctx i) w 0xFFFF#32

/-- All of WBUF, row-major (R144). -/
def readWeights (s : State) : Except Stop (List Operand) :=
  readOperands s.mem Config.wbufBase s.params.cells 0

/-- The input vector of one IBUF slot (R147). -/
def readInput (s : State) (slot : Nat) : Except Stop (List Operand) :=
  readOperands s.mem (ibufAddr s.params slot 0) s.params.rows 0

/-- The input vectors of the first `q` IBUF slots, one after the other: element q·R + r is IBUF[q][r] (R180). -/
def readInputs (s : State) (q : Nat) : Except Stop (List Operand) :=
  readOperands s.mem Config.ibufBase (q * s.params.rows) 0

/-- Read `n` 64-bit values from an offset up (R212). -/
def readDwords (m : Memory) (a : Nat) : Nat → Except Stop (List Dword)
  | 0 => .ok []
  | n + 1 =>
    match Memory.readDword m a with
    | none => .error (.uninit (if (Memory.readWord m a).isSome then a + 4 else a))
    | some d =>
      match readDwords m (a + 8) n with
      | .ok ds => .ok (d :: ds)
      | .error e => .error e

/-- The C values of one OBUF slot (R212). -/
def readOutput (s : State) (slot : Nat) : Except Stop (List Dword) :=
  readDwords s.mem (obufAddr s.params slot 0) s.params.cols

/-- VAR_l, the activation code of layer l in ACTV, bits 2l+1:2l (R44). -/
def layerVariant (actv : Word) (l : Nat) : Nat := (actv.extractLsb' (2 * l) 2).toNat

/-- The five stages in the order of their numbers (R170). -/
def allStages : List Stage := [.fetch, .compute, .activate, .transfer, .detect]

/-- The number of a stage (R170). -/
def stageNumber : Stage → Nat
  | .fetch => 0
  | .compute => 1
  | .activate => 2
  | .transfer => 3
  | .detect => 4

/-- The durations as RUN uses them, once they are known not to be negative (R40, R182). -/
def durations (s : State) : PerStage Nat := s.dur.map BitVec.toNat

end Sys2Proof.Machine
end

