-- ==== Sys2Proof/Machine/Activation.lean ====
section
/-! DEFINITION. The activations and the command ACT (43_activation.md). -/

namespace Sys2Proof.Machine

/-- The two recognized activation variants (R210). -/
inductive Variant where
  | relu
  | leaky
deriving DecidableEq, Repr

/-- The variant of a code; codes 2 and 3 name no function (R96, R210). -/
def variantOf (code : Nat) : Option Variant :=
  match code with
  | 0 => some .relu
  | 1 => some .leaky
  | _ => none

/-- `act(v, x)` on a signed 64-bit value (R210). -/
def activate (v : Variant) (x : Dword) : Dword :=
  match v with
  | .relu => if x.slt 0#64 then 0#64 else x
  | .leaky => if x.slt 0#64 then x.sshiftRight 3 else x

/-- ACT's checks, in the order R212 writes them, and the values it writes. -/
def actValues (var oslot : Nat) (s : State) : Except Stop (List Dword) :=
  match variantOf var with
  | none => raise .cfgVariant (ctx 0) (ctx var) (ctx 1)
  | some v =>
    if s.params.nslot ≤ oslot then raise .slot (ctx 1) (ctx oslot) (ctx (s.params.nslot - 1))
    else (readOutput s oslot).map fun ds => ds.map (activate v)

/-- ACT (R212). -/
def execAct (var oslot : Nat) (s : State) : Result :=
  finish s ((actValues var oslot s).map fun ds =>
    { s with mem := Memory.writeDwords s.mem (obufAddr s.params oslot 0) ds })

end Sys2Proof.Machine
end

