-- ==== Sys2Proof/Machine/Codec.lean ====
section
/-! DEFINITION. The FixedPointCodec: decompose and reassemble, and the commands DECOMP and REASM (40_codec.md). -/

namespace Sys2Proof.Machine

/-- `decompose(x)`: the four digits of an operand, the most significant first (R120). -/
def decompose (x : Operand) : NibbleVector :=
  { d0 := x.extractLsb' 12 4, d1 := x.extractLsb' 8 4, d2 := x.extractLsb' 4 4, d3 := x.extractLsb' 0 4 }

/-- `reassemble(v)`: the sum of the digits, each at its weight (R121). -/
def reassemble (v : NibbleVector) : Operand :=
  BitVec.ofNat 16 (v.d0.toNat * 2 ^ 12 + v.d1.toNat * 2 ^ 8 + v.d2.toNat * 2 ^ 4 + v.d3.toNat)

/-- A NibbleVector as CODEC_NIB holds it: one digit a byte, digit 0 in bits 7:0 (R37). -/
def packDigits (v : NibbleVector) : Word :=
  v.d3.setWidth 8 ++ v.d2.setWidth 8 ++ v.d1.setWidth 8 ++ v.d0.setWidth 8

/-- Byte i of CODEC_NIB, the digit i that REASM reads (R124). -/
def digitByte (n : Word) (i : Nat) : BitVec 8 := n.extractLsb' (8 * i) 8

/-- The digits in CODEC_NIB, once every byte is known to be at most 15 (R124). -/
def unpackDigits (n : Word) : NibbleVector :=
  { d0 := (digitByte n 0).setWidth 4, d1 := (digitByte n 1).setWidth 4
    d2 := (digitByte n 2).setWidth 4, d3 := (digitByte n 3).setWidth 4 }

/-- DECOMP's check and its result for CODEC_NIB (R123). -/
def decompValue (x : Word) : Except Stop Word :=
  if x.extractLsb' 16 16 = 0#16 then .ok (packDigits (decompose (x.setWidth 16)))
  else raise .range (ctx 0) x 0xFFFF#32

/-- DECOMP (R123). -/
def execDecomp (s : State) : Result :=
  finish s ((decompValue s.codecIn).map fun n => { s with codecNib := n })

/-- REASM's checks, in the order of the bytes, and its result for CODEC_OUT (R124). -/
def reasmValue (n : Word) : Except Stop Word :=
  match [0, 1, 2, 3].find? (fun i => decide (15 < (digitByte n i).toNat)) with
  | some i => raise .range (ctx i) ((digitByte n i).setWidth 32) (ctx 15)
  | none => .ok ((reassemble (unpackDigits n)).setWidth 32)

/-- REASM (R124). -/
def execReasm (s : State) : Result :=
  finish s ((reasmValue s.codecNib).map fun v => { s with codecOut := v })

end Sys2Proof.Machine
end

