-- ==== Sys2Proof/Machine/MacArray.lean ====
section
/-! DEFINITION. The CrossbarMacEngine: the nibble product, the MAC function, and the commands LOAD and COMPUTE
(41_mac_array.md). -/

namespace Sys2Proof.Machine

/-- The multiplier primitive MUL4, the only multiplier of the datapath (R140, R146). -/
def mul4 (a b : Nibble) : Nat := a.toNat * b.toNat

/-- SH(i, j), the bit offset of the partial product of input digit i and weight digit j (R141). -/
def partialShift (i j : Nat) : Nat := 4 * ((3 - i) + (3 - j))

/-- The digits of a vector with their indexes. -/
def indexedDigits (v : NibbleVector) : List (Nat × Nibble) := [(0, v.d0), (1, v.d1), (2, v.d2), (3, v.d3)]

/-- `product(x, r, c)` from the digits of x and of cell (r, c): the sum of the 16 shifted partial products (R142). -/
def product (x w : NibbleVector) : Nat :=
  ((indexedDigits x).map fun i =>
    ((indexedDigits w).map fun j => mul4 i.2 j.2 * 2 ^ partialShift i.1 j.1).sum).sum

/-- The digits of cell (r, c) (R47). Where an array is loaded every cell has its digits (`State.ArrayCoherent` in
Sys2Proof/Safety.lean), so the default is never read. -/
def cellDigits (s : State) (r c : Nat) : NibbleVector := s.wnib.getD (r * s.params.cols + c) ⟨0#4, 0#4, 0#4, 0#4⟩

/-- The inner loop of mac for cell c: add the products of rows r, r + 1, … into an accumulator (R148). -/
def accumulate (s : State) (c : Nat) : List Operand → Nat → Accum → Accum
  | [], _, a => a
  | x :: xs, r, a => accumulate s c xs (r + 1) (a + BitVec.ofNat 48 (product (decompose x) (cellDigits s r c)))

/-- `mac(x)`: every accumulator starts at 0 and takes the products of all rows (R148). -/
def mac (s : State) (xs : List Operand) : List Accum :=
  (List.range s.params.cols).map fun c => accumulate s c xs 0 0#48

/-- The OBUF values of a vector of accumulators, sext_64(ACC[c]) (R150). -/
def outputs (accs : List Accum) : List Dword := accs.map fun a => a.signExtend 64

/-- LOAD's checks: the declared shape, rows first, then every word of WBUF (R144). -/
def loadWeights (rows cols : Nat) (s : State) : Except Stop (List Operand) :=
  if rows ≠ s.params.rows then raise .shape (ctx 0) (ctx rows) (ctx s.params.rows)
  else if cols ≠ s.params.cols then raise .shape (ctx 1) (ctx cols) (ctx s.params.cols)
  else readWeights s

/-- LOAD's commit: the whole array, its nibble cache and WVALID at once (R144, R145). -/
def commitLoad (ws : List Operand) (s : State) : State :=
  { s with warr := ws, wnib := ws.map decompose, wvalid := true }

/-- LOAD (R144). -/
def execLoad (rows cols : Nat) (s : State) : Result :=
  finish s ((loadWeights rows cols s).map fun ws => commitLoad ws s)

/-- COMPUTE's checks, in the order R147 writes them, and its input vector. -/
def computeInput (len islot oslot : Nat) (s : State) : Except Stop (List Operand) :=
  if s.wvalid = false then raise .noArray (ctx 0) (ctx 0) (ctx 0)
  else if len ≠ s.params.rows then raise .shape (ctx 0) (ctx len) (ctx s.params.rows)
  else if s.params.nslot ≤ islot then raise .slot (ctx 0) (ctx islot) (ctx (s.params.nslot - 1))
  else if s.params.nslot ≤ oslot then raise .slot (ctx 1) (ctx oslot) (ctx (s.params.nslot - 1))
  else readInput s islot

/-- COMPUTE's writes: the accumulators and one OBUF slot (R147). -/
def commitCompute (oslot : Nat) (xs : List Operand) (s : State) : State :=
  { s with
    acc := mac s xs
    mem := Memory.writeDwords s.mem (obufAddr s.params oslot 0) (outputs (mac s xs)) }

/-- COMPUTE (R147). -/
def execCompute (len islot oslot : Nat) (s : State) : Result :=
  finish s ((computeInput len islot oslot s).map fun xs => commitCompute oslot xs s)

end Sys2Proof.Machine
end

