-- ==== Sys2Proof/Machine/Scheduler.lean ====
section
/-! DEFINITION. The PipelineScheduler and the command RUN (42_scheduler.md). The schedule is computed from the list
of occupations in submission order (R177) by one timing rule (R173, R175, R178), in exact integers (R182). -/

namespace Sys2Proof.Machine

/-! ## The schedule -/

/-- One occupation of a stage, before it has its times (R171, R172). -/
structure Job where
  stage : Stage
  /-- The layer, for the stages S1, S2, S3 (R53). -/
  layer : Option Nat
  image : Nat
  /-- The chunk within the image; S4 belongs to an image only (R53, R178). -/
  chunk : Option Nat
deriving DecidableEq, Repr

/-- One event: an occupation with its interval [start, stop) in ticks (R171). -/
structure Event where
  job : Job
  start : Nat
  stop : Nat
deriving DecidableEq, Repr

/-- The scheduler's state inside a run (R54). -/
structure Timeline where
  /-- FREE[s]. -/
  free : PerStage Nat
  /-- OCC. -/
  occ : Nat
  /-- ACCEPT. -/
  accept : Nat
  /-- The end of the event before (the variable `ready` of R182). -/
  ready : Nat
deriving DecidableEq, Repr

/-- The timeline at the start of every RUN (R174). -/
def startTimeline : Timeline := { free := .all 0, occ := 0, accept := 0, ready := 0 }

/-- An emitted event with the timeline after it. -/
structure Emission where
  event : Event
  after : Timeline
deriving DecidableEq, Repr

/-- The occupations of one layer of a chunk (R172). -/
def layerJobs (img k l : Nat) : List Job :=
  [{ stage := .compute, layer := some l, image := img, chunk := some k },
   { stage := .activate, layer := some l, image := img, chunk := some k },
   { stage := .transfer, layer := some l, image := img, chunk := some k }]

/-- The path of one chunk: S0, then S1, S2, S3 for each layer (R172). -/
def chunkJobs (layers img k : Nat) : List Job :=
  { stage := .fetch, layer := none, image := img, chunk := some k } ::
    (List.range layers).flatMap (layerJobs img k)

/-- The occupations of one image: its chunks, then S4 once (R177, R178). -/
def imageJobs (chunks layers img : Nat) : List Job :=
  (List.range chunks).flatMap (chunkJobs layers img) ++
    [{ stage := .detect, layer := none, image := img, chunk := none }]

/-- All occupations of a run in submission order (R177, R182). -/
def runJobs (images chunks layers : Nat) : List Job := (List.range images).flatMap (imageJobs chunks layers)

/-- When an occupation is ready: a fetch when the chunk before it has been accepted (R175), every other at the end of
the event before it (R173), which for S4 is the image's last transfer (R178). -/
def readyTime (t : Timeline) (j : Job) : Nat :=
  match j.stage with
  | .fetch => t.accept
  | .compute | .activate | .transfer | .detect => t.ready

/-- The buffer's bookkeeping: a fetch fills it (R176), a layer-0 compute empties it and is the chunk's acceptance
(R175, R176). -/
def bookBuffer (j : Job) (start : Nat) (t : Timeline) : Timeline :=
  match j.stage, j.layer with
  | .fetch, _ => { t with occ := t.occ + 1 }
  | .compute, some 0 => { t with occ := t.occ - 1, accept := start }
  | _, _ => t

/-- The timing rule: start when the stage is free and the occupation is ready, last the stage's duration, and free
the stage at the end (R173). -/
def serve (d : PerStage Nat) (t : Timeline) (j : Job) : Emission :=
  let start := max (t.free.get j.stage) (readyTime t j)
  let stop := start + d.get j.stage
  { event := { job := j, start := start, stop := stop }
    after := bookBuffer j start { t with free := t.free.set j.stage stop, ready := stop } }

/-- Serve occupations in order (R177, R182). -/
def serveAll (d : PerStage Nat) : List Job → Timeline → List Emission
  | [], _ => []
  | j :: js, t => serve d t j :: serveAll d js (serve d t j).after

/-- The timeline after the last emission. -/
def lastTimeline (t : Timeline) (es : List Emission) : Timeline :=
  match es.getLast? with
  | some e => e.after
  | none => t

/-- The whole schedule of a run (R182). -/
def schedule (d : PerStage Nat) (images chunks layers : Nat) : List Emission :=
  serveAll d (runJobs images chunks layers) startTimeline

/-- N_EV, the number of events of a run (R181). -/
def eventCount (images chunks layers : Nat) : Nat := images * (chunks * (1 + 3 * layers) + 1)

/-! ## The event log -/

/-- The LAYER field: the layer, or 0xF for S0 and S4 (R53). -/
def layerField (j : Job) : BitVec 4 :=
  match j.layer with
  | some l => BitVec.ofNat 4 l
  | none => 0xF#4

/-- The CHUNK word: the chunk, or 0xFFFF_FFFF for S4 (R53). -/
def chunkWord (j : Job) : Word :=
  match j.chunk with
  | some k => ctx k
  | none => 0xFFFFFFFF#32

/-- The eight words of an event's record (R53, R184). -/
def recordWords (e : Event) : List Word :=
  [0#24 ++ layerField e.job ++ BitVec.ofNat 4 (stageNumber e.job.stage), ctx e.job.image, chunkWord e.job, 0#32] ++
    dwordWords (BitVec.ofNat 64 e.start) ++ dwordWords (BitVec.ofNat 64 e.stop)

/-- The words of the log of a run, record by record in emission order (R184). -/
def logWords (es : List Emission) : List Word := es.flatMap fun e => recordWords e.event

/-! ## RUN -/

/-- The schedule of the configuration registers (R182). -/
def runSchedule (s : State) : List Emission :=
  schedule (durations s) s.images.toNat s.chunks.toNat s.layers.toNat

/-- N_EV of the configuration registers (R180, R181). -/
def runEvents (s : State) : Nat := eventCount s.images.toNat s.chunks.toNat s.layers.toNat

/-- Q, the slots a data-mode run of the configuration registers uses (R180). -/
def runSlots (s : State) : Nat := s.images.toNat * s.chunks.toNat * s.layers.toNat

/-- sat32 (R180). -/
def sat32 (n : Nat) : Word := ctx (min n 0xFFFFFFFF)

/-- RUN's checks on the data, made in data mode only (R180), and the input vectors of the slots it uses. -/
def runData (mode : RunMode) (s : State) : Except Stop (List Operand) :=
  match mode with
  | .timing => .ok []
  | .data =>
    if s.wvalid = false then raise .noArray (ctx 0) (ctx 0) (ctx 0)
    else if s.params.nslot < runSlots s then
      raise .cfgCapacity (ctx 1) (ctx (runSlots s)) (ctx s.params.nslot)
    else readInputs s (runSlots s)

/-- RUN's checks on the counts and the log's capacity (R180), then those on the data. -/
def runCounts (mode : RunMode) (s : State) : Except Stop (List Operand) :=
  if s.chunks.toInt ≤ 0 then raise .cfgCount (ctx 0) s.chunks 0x7FFFFFFF#32
  else if s.images.toInt ≤ 0 then raise .cfgCount (ctx 1) s.images 0x7FFFFFFF#32
  else if s.params.evmax < runEvents s then
    raise .cfgCapacity (ctx 0) (sat32 (runEvents s)) (ctx s.params.evmax)
  else runData mode s

/-- RUN's validation, in the order R180 writes it: the layers, the variants of the layers in use, the durations, then
`runCounts`. -/
def runInput (mode : RunMode) (s : State) : Except Stop (List Operand) :=
  if s.layers.toInt < 1 ∨ Config.lmax < s.layers.toInt then raise .cfgLayers (ctx 0) s.layers (ctx Config.lmax)
  else
    match (List.range s.layers.toNat).find? (fun l => decide (1 < layerVariant s.actv l)) with
    | some l => raise .cfgVariant (ctx l) (ctx (layerVariant s.actv l)) (ctx 1)
    | none =>
      match allStages.find? (fun g => decide ((s.dur.get g).toInt < 0)) with
      | some g => raise .cfgDuration (ctx (stageNumber g)) (s.dur.get g) 0x7FFFFFFF#32
      | none => runCounts mode s

/-- The operands of slot q among those of all slots. -/
def slotOperands (s : State) (xs : List Operand) (q : Nat) : List Operand :=
  (xs.drop (q * s.params.rows)).take s.params.rows

/-- The activation of layer l on one value (R183). Every layer in use has a recognized code (R180), so the last case
is never met in a run. -/
def activateLayer (s : State) (l : Nat) (x : Dword) : Dword :=
  match variantOf (layerVariant s.actv l) with
  | some v => activate v x
  | none => x

/-- The values RUN leaves in OBUF slot q: the compute body's, then the activation body's on them (R183). -/
def slotOutputs (s : State) (xs : List Operand) (q : Nat) : List Dword :=
  (outputs (mac s (slotOperands s xs q))).map (activateLayer s (q % s.layers.toNat))

/-- The OBUF values of all slots a data-mode run uses, one slot after the other (R183). -/
def runOutputs (s : State) (xs : List Operand) : List Dword :=
  (List.range (runSlots s)).flatMap (slotOutputs s xs)

/-- What the schedule of a run writes: the log, EVCOUNT and the scheduler's state (R182, R184, R185). -/
def commitSchedule (s : State) : State :=
  { s with
    mem := Memory.writeWords s.mem Config.evlogBase (logWords (runSchedule s))
    evcount := ctx (runSchedule s).length
    free := (lastTimeline startTimeline (runSchedule s)).free.map (BitVec.ofNat 64)
    occ := (lastTimeline startTimeline (runSchedule s)).occ
    accept := BitVec.ofNat 64 (lastTimeline startTimeline (runSchedule s)).accept }

/-- What the bodies of a data-mode run write: OBUF slots 0 .. Q-1, and the accumulators of the last mac (R183). No
body's result depends on the order of the events (R183), and OBUF and EVLOG are apart, so the bodies follow the
log (notes/assumptions/7.md). -/
def commitData (xs : List Operand) (s : State) : State :=
  { s with
    mem := Memory.writeDwords s.mem Config.obufBase (runOutputs s xs)
    acc := mac s (slotOperands s xs (runSlots s - 1)) }

/-- RUN's writes, once every check has passed (R182, R183). -/
def commitRun (mode : RunMode) (xs : List Operand) (s : State) : State :=
  match mode with
  | .timing => commitSchedule s
  | .data => commitData xs (commitSchedule s)

/-- RUN (R179). -/
def execRun (mode : RunMode) (s : State) : Result :=
  finish s ((runInput mode s).map fun xs => commitRun mode xs s)

end Sys2Proof.Machine
end

