-- ==== Sys2Proof/Machine/Dispatch.lean ====
section
/-! DEFINITION. The meaning of each command (30_encoding.md R102). -/

namespace Sys2Proof.Machine

/-- Run one command to its completion in the state it is started in (R9, R236, R237). -/
def exec (i : Instr) (s : State) : Host.Outcome State Fault Refusal :=
  match i with
  | .nop => Sys2Proof.Machine.execNop s
  | .load rows cols => Sys2Proof.Machine.execLoad rows cols s
  | .compute len islot oslot => Sys2Proof.Machine.execCompute len islot oslot s
  | .act var oslot => Sys2Proof.Machine.execAct var oslot s
  | .decomp => Sys2Proof.Machine.execDecomp s
  | .reasm => Sys2Proof.Machine.execReasm s
  | .run mode => Sys2Proof.Machine.execRun mode s

end Sys2Proof.Machine
end

