-- ==== Sys2Proof/Machine/Engine.lean ====
section
/-! DEFINITION. The two agents (00_scope.md R7): the engine, which runs the latched command to its completion, and the
host, whose accesses NMX performs or holds (20_memory.md R68). -/

namespace Sys2Proof.Machine

/-- The engine completes the latched command: decoding comes before every other check (R103, R234). -/
def runLatched (s : State) : Result :=
  match decode s.cmdLatch with
  | .ok i => exec i s
  | .error _ => execIllegal s

/-- Time passes: the running command completes; with none running the held access completes; with none held NMX is
idle and keeps all state (R68, R248). -/
def deviceStep (s : State) : Result :=
  if s.busy then runLatched s
  else
    match s.held with
    | some a => performAccess a (releaseHeld s)
    | none => .next s

/-- The host offers an access while none is held: it completes, or it is held if a command runs and R68 does not let
it pass. -/
def offerAccess (a : Access) (s : State) : Result :=
  if s.busy && !passesBusy a then .next (holdAccess a s) else performAccess a s

end Sys2Proof.Machine
end

