-- ==== Sys2Proof/Machine/Step.lean ====
section
/-! DEFINITION. One step of NMX with its host: one event from outside, or the passing of time (00_scope.md R7, R8). -/

namespace Sys2Proof.Machine

/-- One step. A hardware reset comes at any time (R271). The host is in program order: while an access of its is
held it offers no other (R74), so time passes until that one completes. -/
def step (s : State) : Host.Outcome State Fault Refusal :=
  match s.inputs with
  | [] => deviceStep s
  | .hardwareReset :: rest => .next (hardwareReset rest s)
  | .elapse :: rest => deviceStep (takeInputs rest s)
  | .access a :: rest =>
    match s.held with
    | some _ => deviceStep s
    | none => offerAccess a (takeInputs rest s)

/-- The state in which the command word `w` has been accepted (R28) and the time it takes passes next: the very next
step completes it. -/
def State.withFetchWord (s : State) (nbits w : Nat) : State :=
  { s with busy := true, cmdLatch := tableWord nbits w, inputs := .elapse :: s.inputs }

end Sys2Proof.Machine
end

