-- ==== Sys2Proof/Machine/Script.lean ====
section
/-! DEFINITION. Host scripts: their lines, what the host does for each, how a script runs against NMX, and their text
(30_encoding.md R104 to R106). A script is the host's, not NMX's (R56). -/

namespace Sys2Proof.Machine

/-- One line of a host script (R104, R106). -/
inductive Line where
  /-- `wr <offset>, <word>`. -/
  | wr (off : BitVec 32) (w : Word)
  /-- `rd <offset>`. -/
  | rd (off : BitVec 32)
  /-- `rd <offset> == <word>`: a read; the value is the script's claim, not a bus behaviour. -/
  | rdCheck (off : BitVec 32) (w : Word)
  /-- A comment or an empty line. -/
  | comment
  /-- `cmd <mnemonic> <operands>`. -/
  | cmd (i : Instr)
  /-- `wait`. -/
  | wait
  /-- `clr`. -/
  | clr
  /-- `srst`. -/
  | srst
  /-- `wr64 <offset>, <v>`. -/
  | wr64 (off : BitVec 32) (v : Dword)
  /-- `rd64 <offset>`. -/
  | rd64 (off : BitVec 32)
deriving DecidableEq, Repr

/-- A host read of a word. -/
def readAccess (off : BitVec 32) : Access := { dir := .read, addr := off, size := 2#2, wdata := 0#32 }

/-- A host write of a word. -/
def writeAccess (off : BitVec 32) (w : Word) : Access := { dir := .write, addr := off, size := 2#2, wdata := w }

/-- What a script has the host do. -/
inductive HostAction where
  /-- One access. -/
  | access (a : Access)
  /-- Read STATUS, and again until bit 0 of the value read is 0 (`wait`, R106). -/
  | pollUntilIdle
deriving DecidableEq, Repr

/-- `rd` as an action. -/
def rdAction (off : BitVec 32) : HostAction := .access (readAccess off)

/-- `wr` as an action. -/
def wrAction (off : BitVec 32) (w : Word) : HostAction := .access (writeAccess off w)

/-- What a line stands for (R106); none where a command's operand does not fit its field (R105). -/
def Line.expand : Line → Option (List HostAction)
  | .wr off w => some [wrAction off w]
  | .rd off => some [rdAction off]
  | .rdCheck off _ => some [rdAction off]
  | .comment => some []
  | .cmd i => (assemble i).map fun w => [wrAction 0x010#32 w]
  | .wait => some [.pollUntilIdle]
  | .clr => some [wrAction 0x014#32 0x00000006#32]
  | .srst => some [wrAction 0x018#32 0x00000001#32]
  | .wr64 off v => some [wrAction off (v.extractLsb' 0 32), wrAction (off + 4#32) (v.extractLsb' 32 32)]
  | .rd64 off => some [rdAction off, rdAction (off + 4#32)]

/-- What a whole script stands for, line after line. -/
def expandScript : List Line → Option (List HostAction)
  | [] => some []
  | l :: ls =>
    match l.expand, expandScript ls with
    | some xs, some ys => some (xs ++ ys)
    | _, _ => none

/-! ## Running a script -/

/-- A script under way: NMX, and what the host has still to do, in order (R104). -/
structure ScriptRun where
  machine : State
  todo : List HostAction
deriving DecidableEq, Repr

/-- The access an action offers. -/
def HostAction.offers : HostAction → Access
  | .access a => a
  | .pollUntilIdle => readAccess 0x014#32

/-- The host has just read a value whose bit 0 is 1. -/
def toldBusy (s : State) : Bool :=
  match s.lastResponse with
  | some (.data v) => v.getLsbD 0
  | some .written => false
  | some .held => false
  | none => false

/-- What is left of an action once NMX has taken its access and is in state `t`: a `wait` goes on while it reads a
busy NMX (R106). -/
def HostAction.remains (x : HostAction) (t : State) : List HostAction :=
  match x with
  | .access _ => []
  | .pollUntilIdle => if toldBusy t then [.pollUntilIdle] else []

/-- NMX takes one event `x`, the only one there is (a script supplies all events, one a turn), after which `todo` of its
new state is left to do. -/
def ScriptRun.feed (r : ScriptRun) (x : Input) (todo : State → List HostAction) :
    Host.Outcome ScriptRun Fault Refusal :=
  match step (takeInputs [x] r.machine) with
  | .next t => .next { machine := t, todo := todo t }
  | .fault f => .fault f
  | .refused e => .refused e

/-- One turn of a script. Time passes, or the host offers the access of its next action; which of the two comes is
the implementation's, as latencies are (R280). A host whose access is held, or whose script is at its end, waits
(R74). -/
def scriptTurn (timePasses : Bool) (r : ScriptRun) : Host.Outcome ScriptRun Fault Refusal :=
  if timePasses || r.machine.held.isSome then r.feed .elapse fun _ => r.todo
  else
    match r.todo with
    | [] => r.feed .elapse fun _ => []
    | x :: rest => r.feed (.access x.offers) fun t => x.remains t ++ rest

/-- Turns of a script, one for each choice of who moves. -/
def runScript : List Bool → ScriptRun → Host.Outcome ScriptRun Fault Refusal
  | [], r => .next r
  | c :: cs, r =>
    match scriptTurn c r with
    | .next q => runScript cs q
    | .fault f => .fault f
    | .refused e => .refused e

/-! ## Text -/

/-- A token of a script line. -/
inductive Token where
  | word (cs : List Char)
  | comma
deriving DecidableEq, Repr

/-- The token that the characters read so far make, if any. -/
def flushToken (cur : List Char) : List Token := if cur.isEmpty then [] else [.word cur]

/-- The tokens of a line; `;` begins a comment (R104). -/
def tokenize : List Char → List Char → List Token
  | [], cur => flushToken cur
  | c :: cs, cur =>
    if c = ';' then flushToken cur
    else if c = ' ' ∨ c = '\t' then flushToken cur ++ tokenize cs []
    else if c = ',' then flushToken cur ++ .comma :: tokenize cs []
    else tokenize cs (cur ++ [c])

/-- The value of a digit, decimal or hexadecimal. -/
def digitOf (c : Char) : Option Nat :=
  let n := c.toNat
  if 48 ≤ n ∧ n ≤ 57 then some (n - 48)
  else if 65 ≤ n ∧ n ≤ 70 then some (n - 55)
  else if 97 ≤ n ∧ n ≤ 102 then some (n - 87)
  else none

/-- Read digits of a base, skipping the separator `_` (R12, R104). -/
def readDigits (base : Nat) : List Char → Nat → Option Nat
  | [], acc => some acc
  | c :: cs, acc =>
    if c = '_' then readDigits base cs acc
    else
      match digitOf c with
      | some d => if d < base then readDigits base cs (acc * base + d) else none
      | none => none

/-- A number below `2 ^ width`, decimal or `0x` hexadecimal (R104). -/
def readNumber (width : Nat) (cs : List Char) : Option Nat :=
  let value :=
    match cs with
    | '0' :: 'x' :: hex => if hex.any (fun c => c ≠ '_') then readDigits 16 hex 0 else none
    | dec => if dec.any (fun c => c ≠ '_') then readDigits 10 dec 0 else none
  match value with
  | some n => if n < 2 ^ width then some n else none
  | none => none

/-- Operands separated by commas. -/
def readOperandList : List Token → Option (List (List Char))
  | [] => some []
  | [.word w] => some [w]
  | .word w :: .comma :: .word v :: ts => (readOperandList (.word v :: ts)).map (w :: ·)
  | _ => none

/-- The variant operand of `act`: a name or a code (R105). -/
def readVariant (cs : List Char) : Option Nat :=
  if cs = ['r', 'e', 'l', 'u'] then some 0
  else if cs = ['l', 'e', 'a', 'k', 'y'] then some 1
  else readNumber 2 cs

/-- A command with its operands in field order (R105). -/
def readCommand (name : List Char) (ops : List (List Char)) : Option Instr :=
  if name = ['n', 'o', 'p'] then (if ops = [] then some .nop else none)
  else if name = ['d', 'e', 'c', 'o', 'm', 'p'] then (if ops = [] then some .decomp else none)
  else if name = ['r', 'e', 'a', 's', 'm'] then (if ops = [] then some .reasm else none)
  else if name = ['r', 'u', 'n'] then
    (if ops = [['t', 'i', 'm', 'i', 'n', 'g']] then some (.run .timing)
     else if ops = [['d', 'a', 't', 'a']] then some (.run .data) else none)
  else if name = ['l', 'o', 'a', 'd'] then
    (match ops with
     | [r, c] =>
       (match readNumber 12 r, readNumber 12 c with
        | some rows, some cols => some (.load rows cols)
        | _, _ => none)
     | _ => none)
  else if name = ['c', 'o', 'm', 'p', 'u', 't', 'e'] then
    (match ops with
     | [l, i, o] =>
       (match readNumber 12 l, readNumber 8 i, readNumber 8 o with
        | some len, some islot, some oslot => some (.compute len islot oslot)
        | _, _, _ => none)
     | _ => none)
  else if name = ['a', 'c', 't'] then
    (match ops with
     | [v, o] =>
       (match readVariant v, readNumber 8 o with
        | some var, some oslot => some (.act var oslot)
        | _, _ => none)
     | _ => none)
  else none

/-- A line with a keyword and operands. -/
def readKeyword (name : List Char) (ops : List (List Char)) : Option Line :=
  if name = ['w', 'r'] then
    (match ops with
     | [a, v] =>
       (match readNumber 32 a, readNumber 32 v with
        | some off, some w => some (.wr (BitVec.ofNat 32 off) (BitVec.ofNat 32 w))
        | _, _ => none)
     | _ => none)
  else if name = ['w', 'r', '6', '4'] then
    (match ops with
     | [a, v] =>
       (match readNumber 32 a, readNumber 64 v with
        | some off, some w => some (.wr64 (BitVec.ofNat 32 off) (BitVec.ofNat 64 w))
        | _, _ => none)
     | _ => none)
  else if name = ['r', 'd'] then
    (match ops with
     | [a] => (readNumber 32 a).map fun off => .rd (BitVec.ofNat 32 off)
     | _ => none)
  else if name = ['r', 'd', '6', '4'] then
    (match ops with
     | [a] => (readNumber 32 a).map fun off => .rd64 (BitVec.ofNat 32 off)
     | _ => none)
  else if name = ['w', 'a', 'i', 't'] then (if ops = [] then some .wait else none)
  else if name = ['c', 'l', 'r'] then (if ops = [] then some .clr else none)
  else if name = ['s', 'r', 's', 't'] then (if ops = [] then some .srst else none)
  else none

/-- Read a line of a script (R104, R106); none is an assembly error. -/
def readLine (text : List Char) : Option Line :=
  match tokenize text [] with
  | [] => some .comment
  | [.word ['r', 'd'], .word a, .word ['=', '='], .word v] =>
    (match readNumber 32 a, readNumber 32 v with
     | some off, some w => some (.rdCheck (BitVec.ofNat 32 off) (BitVec.ofNat 32 w))
     | _, _ => none)
  | .word ['c', 'm', 'd'] :: .word name :: ts =>
    (match readOperandList ts with
     | some ops => (readCommand name ops).map .cmd
     | none => none)
  | .word name :: ts =>
    (match readOperandList ts with
     | some ops => readKeyword name ops
     | none => none)
  | .comma :: _ => none

end Sys2Proof.Machine
end

