-- ==== Sys2Proof/Safety.lean ====
section
/-! DEFINITION. What a state that runs may be assumed to satisfy, and what a safe run is, in the terms the claims
use. -/

namespace Sys2Proof.Machine

/-- The nibble cache holds the digits of the stored operands, and a loaded array has all its cells (R47, R48, R78). -/
structure State.ArrayCoherent (s : State) : Prop where
  nibbles : s.wnib = s.warr.map decompose
  loaded : s.wvalid = true → s.warr.length = s.params.cells

/-- The invariant every step keeps. Each field names the rule that asks for it. -/
structure State.Inv (s : State) : Prop where
  /-- The parameters are those of a legal instance (R10). -/
  legal : s.params.legal
  /-- The memory is in its canonical form. -/
  memCanonical : s.mem.wf
  /-- Only offsets of WBUF, IBUF, OBUF and EVLOG store bytes (R62). -/
  memMapped : ∀ c ∈ s.mem, inHostRam s.params c.1 = true ∨ inEvlog s.params c.1 = true
  /-- WNIB agrees with WARR, which is whole when it is valid (R47, R48, R78). -/
  array : s.ArrayCoherent
  /-- There are C accumulators (R49). -/
  accumulators : s.acc.length = s.params.cols
  /-- The buffer's occupancy is an integer in [0, 1] (R54). -/
  occupancy : s.occ ≤ Config.bufCap
  /-- EVCOUNT counts records that fit in the log (R180, R185) … -/
  logFits : s.evcount.toNat ≤ s.params.evmax
  /-- … and whose words have all been written (R53, R185). -/
  logWritten : ∀ n k, n < s.evcount.toNat → k < 8 → (Memory.readWord s.mem (evlogAddr n k)).isSome = true
  /-- CODEC_OUT[31:16] is 0 (R38, R124). -/
  codecOut : s.codecOut.toNat < 65536
  /-- ERR = 1 comes with an error's code, never E_NONE (R231, R236). -/
  errorNamed : s.err = true → s.errCode ≠ .none
  /-- NMX holds only accesses that may not pass a running command (R68). -/
  heldBlocked : ∀ a, s.held = some a → passesBusy a = false

/-- Within `k` steps no step stops: every access reaches a place that is in use and holds a value, and so does every
operand a command reads. -/
def RunsSafely : Nat → State → Prop
  | 0, _ => True
  | k + 1, s => ∃ t, step s = .next t ∧ RunsSafely k t

end Sys2Proof.Machine
end

