-- ==== Sys2Proof/Certificates/Slice0/Obligations.lean ====
section
/-! DEFINITION. The statements for the provers, and the words they are said in. Where a statement needs what a rule says,
it says it in arithmetic of its own rather than by the function of the model that does it. -/

namespace Sys2Proof.Claims

open Sys2Proof.Machine

/-- R236 written out: what the completion of a failing command leaves. -/
def failed (code : ErrorCode) (index value limit : Word) (s : State) : State :=
  { s with
    errOpc := s.cmdLatch.extractLsb' 28 4, errCode := code
    errIndex := index, errValue := value, errLimit := limit
    err := true, done := true, busy := false }

/-- The words that encode no command, in arithmetic (R92, R100, R101). -/
abbrev IllegalWord (w : Word) : Prop :=
  7 ≤ w.toNat / 2 ^ 28 ∨
    ((w.toNat / 2 ^ 28 = 0 ∨ w.toNat / 2 ^ 28 = 4 ∨ w.toNat / 2 ^ 28 = 5) ∧ w.toNat % 2 ^ 28 ≠ 0) ∨
    (w.toNat / 2 ^ 28 = 1 ∧ w.toNat / 2 ^ 24 % 16 ≠ 0) ∨
    (w.toNat / 2 ^ 28 = 3 ∧ w.toNat / 2 ^ 10 % 2 ^ 18 ≠ 0) ∨
    (w.toNat / 2 ^ 28 = 6 ∧ w.toNat % 2 ^ 27 ≠ 0)

/-- Nothing runs and nothing is held, and the host offers `a` next. -/
abbrev Offers (s : State) (a : Access) (rest : List Input) : Prop :=
  s.busy = false ∧ s.held = none ∧ s.inputs = .access a :: rest

/-- The accesses R68 lists, by direction and offset. -/
abbrev PassesWhileBusy (a : Access) : Prop :=
  a.size = 2#2 ∧
    ((a.dir = .read ∧ (a.addr = 0x000#32 ∨ a.addr = 0x004#32 ∨ a.addr = 0x008#32 ∨ a.addr = 0x00C#32 ∨
        a.addr = 0x014#32 ∨ a.addr = 0x01C#32)) ∨
      (a.dir = .write ∧ (a.addr = 0x014#32 ∨ a.addr = 0x01C#32)))

/-- The offsets R62 and R23 put something at, on word boundaries. -/
abbrev Mapped (p : Params) (off : Nat) : Prop :=
  off ≤ 0x060 ∨
    (0x01000000 ≤ off ∧ off < 0x01000000 + 4 * (p.rows * p.cols)) ∨
    (0x02000000 ≤ off ∧ off < 0x02000000 + 4 * (p.rows * p.cols)) ∨
    (0x03000000 ≤ off ∧ off < 0x03000000 + 4 * (p.nslot * p.rows)) ∨
    (0x04000000 ≤ off ∧ off < 0x04000000 + 8 * (p.nslot * p.cols)) ∨
    (0x05000000 ≤ off ∧ off < 0x05000000 + 32 * p.evmax)

/-- The number of an error code (R231). -/
def codeNumber : ErrorCode → Nat
  | .none => 0x00
  | .range => 0x01
  | .shape => 0x02
  | .slot => 0x03
  | .noArray => 0x04
  | .cfgVariant => 0x10
  | .cfgDuration => 0x11
  | .cfgCount => 0x12
  | .cfgLayers => 0x13
  | .cfgCapacity => 0x14
  | .illegal => 0x20

/-- What the control register at an offset reads as, in arithmetic; none where there is no register (R23 to R44). -/
def registerWord (s : State) : Nat → Option Word
  | 0x000 => some 0x4E4D5801#32
  | 0x004 => some (BitVec.ofNat 32 (s.params.cols % 2 ^ 16 * 2 ^ 16 + s.params.rows % 2 ^ 16))
  | 0x008 => some (BitVec.ofNat 32 (0x10300000 + s.params.nslot % 2 ^ 16))
  | 0x00C => some (BitVec.ofNat 32 s.params.evmax)
  | 0x010 => some 0#32
  | 0x014 => some (BitVec.ofNat 32 (s.busy.toNat + 2 * s.done.toNat + 4 * s.err.toNat + 8 * s.wvalid.toNat))
  | 0x018 => some 0#32
  | 0x01C => some (BitVec.ofNat 32 (s.doneIe.toNat + 2 * s.errIe.toNat))
  | 0x020 => some (BitVec.ofNat 32 (s.errOpc.toNat * 256 + codeNumber s.errCode))
  | 0x024 => some s.errIndex
  | 0x028 => some s.errValue
  | 0x02C => some s.errLimit
  | 0x030 => some s.codecIn
  | 0x034 => some s.codecNib
  | 0x038 => some s.codecOut
  | 0x03C => some s.evcount
  | 0x040 => some s.dur.fetch
  | 0x044 => some s.dur.compute
  | 0x048 => some s.dur.activate
  | 0x04C => some s.dur.transfer
  | 0x050 => some s.dur.detect
  | 0x054 => some s.chunks
  | 0x058 => some s.images
  | 0x05C => some s.layers
  | 0x060 => some s.actv
  | _ => none

/-- The word an operand stands in (D7). -/
def HoldsOperand (m : Memory) (off : Nat) (x : Operand) : Prop := Memory.readWord m off = some (x.setWidth 32)

/-- The word at an offset is written and is an operand. -/
def IsOperand (m : Memory) (off : Nat) : Prop := ∃ w, Memory.readWord m off = some w ∧ w.toNat < 65536

/-- IBUF[slot] holds the input vector `xs` (R51). -/
def HoldsInput (s : State) (slot : Nat) (xs : List Operand) : Prop :=
  xs.length = s.params.rows ∧ ∀ r (h : r < xs.length), HoldsOperand s.mem (0x03000000 + 4 * (slot * s.params.rows + r)) xs[r]

/-- Σ x[r]·WARR[r][c] over the rows of `xs`, exactly (R143, R148). -/
def dot (s : State) (c : Nat) (xs : List Operand) : Nat :=
  ((List.range xs.length).map fun r =>
    (xs.getD r 0#16).toNat * (s.warr.getD (r * s.params.cols + c) 0#16).toNat).sum

/-- RUN's conditions on the configuration registers (R180). -/
structure ValidConfig (s : State) : Prop where
  layers : 1 ≤ s.layers.toInt ∧ s.layers.toInt ≤ 8
  variants : ∀ l, l < s.layers.toNat → s.actv.toNat / 4 ^ l % 4 ≤ 1
  durations : ∀ g, 0 ≤ (s.dur.get g).toInt
  chunks : 0 < s.chunks.toInt
  images : 0 < s.images.toInt
  capacity : s.images.toNat * (s.chunks.toNat * (1 + 3 * s.layers.toNat) + 1) ≤ s.params.evmax

/-- The slots a data-mode run uses, Q (R180). -/
def slotsUsed (s : State) : Nat := s.images.toNat * s.chunks.toNat * s.layers.toNat

/-- RUN's conditions on the data, of data mode only (R180). -/
def ValidData (s : State) : RunMode → Prop
  | .timing => True
  | .data => s.wvalid = true ∧ slotsUsed s ≤ s.params.nslot ∧
      ∀ n, n < slotsUsed s * s.params.rows → IsOperand s.mem (0x03000000 + 4 * n)

/-- The word at `off` is the n-th of the words that a command reads from the buffers once its other checks have passed:
LOAD all of WBUF, COMPUTE its IBUF slot, ACT its OBUF slot, a data run the first Q IBUF slots (R144, R147, R180,
R212). -/
def ReadsWord (i : Instr) (s : State) (n off : Nat) : Prop :=
  match i with
  | .load rows cols =>
    rows = s.params.rows ∧ cols = s.params.cols ∧ n < s.params.rows * s.params.cols ∧ off = 0x01000000 + 4 * n
  | .compute len islot oslot =>
    s.wvalid = true ∧ len = s.params.rows ∧ islot < s.params.nslot ∧ oslot < s.params.nslot ∧ n < s.params.rows ∧
      off = 0x03000000 + 4 * (islot * s.params.rows + n)
  | .act var oslot =>
    var ≤ 1 ∧ oslot < s.params.nslot ∧ n < 2 * s.params.cols ∧ off = 0x04000000 + 8 * (oslot * s.params.cols) + 4 * n
  | .run .data =>
    ValidConfig s ∧ s.wvalid = true ∧ slotsUsed s ≤ s.params.nslot ∧ n < slotsUsed s * s.params.rows ∧
      off = 0x03000000 + 4 * n
  | .run .timing | .nop | .decomp | .reasm => False

/-- A command reads on past this word: ACT past every written word, the others past an operand. -/
def ReadsPast (i : Instr) (m : Memory) (off : Nat) : Prop :=
  match i with
  | .act _ _ => (Memory.readWord m off).isSome = true
  | .nop | .load _ _ | .compute _ _ _ | .decomp | .reasm | .run _ => IsOperand m off

/-- The events of the schedule of the configuration registers, in log order. -/
def log (s : State) : List Event := (runSchedule s).map Emission.event

/-- Word k of an event's record, in arithmetic (R53). -/
def recordWord (e : Event) (k : Nat) : Word :=
  match k with
  | 0 => BitVec.ofNat 32 (16 * (match e.job.layer with | some l => l | none => 15) + stageNumber e.job.stage)
  | 1 => BitVec.ofNat 32 e.job.image
  | 2 => (match e.job.chunk with | some k => BitVec.ofNat 32 k | none => 0xFFFFFFFF#32)
  | 4 => BitVec.ofNat 32 (e.start % 2 ^ 32)
  | 5 => BitVec.ofNat 32 (e.start / 2 ^ 32)
  | 6 => BitVec.ofNat 32 (e.stop % 2 ^ 32)
  | 7 => BitVec.ofNat 32 (e.stop / 2 ^ 32)
  | _ => 0#32

/-- EVLOG holds the events `es` as its first records (R53, R67, R184). -/
def HoldsLog (m : Memory) (es : List Event) : Prop :=
  ∀ n e, es[n]? = some e → ∀ k, k < 8 → Memory.readWord m (0x05000000 + 32 * n + 4 * k) = some (recordWord e k)

/-- FREE of a stage before an event, from the events before it: the end of the stage's last occupation, 0 if it has
none (R173, R174). -/
def freeBefore (es : List Event) (g : Stage) : Nat :=
  match (es.filter fun e => decide (e.job.stage = g)).getLast? with
  | some e => e.stop
  | none => 0

/-- An event is a chunk's acceptance: its layer-0 compute (R175). -/
def isAcceptance (e : Event) : Bool := decide (e.job.stage = .compute) && decide (e.job.layer = some 0)

/-- ACCEPT before an event, from the events before it (R174, R175). -/
def acceptBefore (es : List Event) : Nat :=
  match (es.filter isAcceptance).getLast? with
  | some e => e.start
  | none => 0

/-- When an event is ready, from the events before it: a fetch when the chunk before it is accepted (R175), any other
at the end of the event before it (R173, R178). -/
def readyBefore (es : List Event) (j : Job) : Nat :=
  if j.stage = .fetch then acceptBefore es
  else
    match es.getLast? with
    | some e => e.stop
    | none => 0

/-- One interpretation of an activation code on an exact integer (R210). -/
def actInt (code : Nat) (x : Int) : Int := if 0 ≤ x then x else if code = 0 then 0 else x.fdiv 8

end Sys2Proof.Claims

open Sys2Proof Sys2Proof.Machine Sys2Proof.Claims

/-! ## Encoding -/

/-- No bit of an encoding is dropped (R92, R103). -/
def Obligations.DecodeOfEncode : Prop :=
  ∀ i : Instr, i.wellFormed = true → decode (encode i) = .ok i

/-- A word encodes at most one command, and the decoder's commands are well formed (R92, R103). -/
def Obligations.EncodeOfDecode : Prop :=
  ∀ (w : Word) (i : Instr), decode w = .ok i → i.wellFormed = true ∧ encode i = w

/-- Decoding is total: a word decodes exactly when its opcode is not reserved and no reserved bit is set (R100, R101,
R103). -/
def Obligations.DecodesExactlyLegalWords : Prop :=
  ∀ w : Word, (∃ i, decode w = .ok i) ↔ ¬ IllegalWord w

/-- The example encodings (R107). -/
def Obligations.ExampleEncodings : Prop :=
  encode (.load 2 2) = 0x10002002#32 ∧ encode (.load 32 4) = 0x10020004#32 ∧
    encode (.compute 2 0 1) = 0x20020001#32 ∧ encode (.compute 32 1 2) = 0x20200102#32 ∧
    encode (.act 0 1) = 0x30000001#32 ∧ encode (.act 1 1) = 0x30000101#32 ∧
    encode .decomp = 0x40000000#32 ∧ encode .reasm = 0x50000000#32 ∧
    encode (.run .timing) = 0x60000000#32 ∧ encode (.run .data) = 0x68000000#32 ∧ encode .nop = 0x00000000#32

/-- Words written out from R92 decode to the commands they stand for (R103). -/
def Obligations.ExampleWordsDecode : Prop :=
  decode 0x00000000#32 = .ok .nop ∧ decode 0x1FF#32 = .error .reservedBit ∧
    decode 0x10FFF001#32 = .ok (.load 4095 1) ∧ decode 0x2ABC12FE#32 = .ok (.compute 0xABC 0x12 0xFE) ∧
    decode 0x300002FF#32 = .ok (.act 2 255) ∧ decode 0x40000000#32 = .ok .decomp ∧
    decode 0x50000000#32 = .ok .reasm ∧ decode 0x68000000#32 = .ok (.run .data) ∧
    decode 0x60000000#32 = .ok (.run .timing) ∧ decode 0xF1234567#32 = .error .reservedOpcode

/-! ## The step -/

/-- A step runs the latched command when time passes: by the event `elapse`, with no event left, or because the host
waits for a held access. That a command completes at a step at which time passes, and which steps these are, is the
model's choice (notes/assumptions/2.md); R279 and R280 say only that it completes after some time. `withFetchWord` sets
up the first of these, which is the model's reading of how a command comes to run (notes/assumptions/6.md). -/
def Obligations.StepRunsLatchedCommand : Prop :=
  (∀ (s : State) (i : Instr), s.busy = true → decode s.cmdLatch = .ok i →
      (∀ rest, s.inputs = .elapse :: rest → step s = exec i { s with inputs := rest }) ∧
      (s.inputs = [] → step s = exec i s) ∧
      (∀ a b rest, s.inputs = .access a :: rest → s.held = some b → step s = exec i s)) ∧
    ∀ (s : State) (w : Nat) (i : Instr), w < 2 ^ 32 → decode (BitVec.ofNat 32 w) = .ok i →
      step (s.withFetchWord 32 w) = exec i { s with busy := true, cmdLatch := BitVec.ofNat 32 w }

/-- An illegal word is accepted like any other, performs nothing and completes with E_ILLEGAL, 0x20 (R221). -/
def Obligations.IllegalWordFailsWithItself : Prop :=
  ∀ (s : State) (w : Word) (rest : List Input), IllegalWord w →
    Offers s (writeAccess 0x010#32 w) (.elapse :: rest) →
    ∃ t u, step s = .next t ∧ t.busy = true ∧ step t = .next u ∧
      u = { s with
            errCode := .illegal, errOpc := w.extractLsb' 28 4
            errIndex := 0#32, errValue := w, errLimit := 0#32
            err := true, done := true, busy := false
            cmdLatch := w, inputs := rest, lastResponse := some .written } ∧
      (errCodeWord u).toNat = w.toNat / 2 ^ 28 * 256 + 0x20

/-! ## Codec -/

/-- The round-trip law, both ways (R122). -/
def Obligations.CodecRoundTrip : Prop :=
  (∀ x : Operand, reassemble (decompose x) = x) ∧ ∀ v : NibbleVector, decompose (reassemble v) = v

/-- DECOMP on a 16-bit value writes the four digits, the most significant in bits 7:0, and nothing else (R120, R123,
R37). -/
def Obligations.DecompWritesDigits : Prop :=
  ∀ s : State, s.codecIn.toNat < 65536 →
    exec .decomp s = .next { s with
      codecNib := BitVec.ofNat 32 (s.codecIn.toNat / 4096 + s.codecIn.toNat / 256 % 16 * 2 ^ 8 +
        s.codecIn.toNat / 16 % 16 * 2 ^ 16 + s.codecIn.toNat % 16 * 2 ^ 24)
      done := true, busy := false }

/-- DECOMP on a wider value fails with E_RANGE and leaves CODEC_NIB (R123). -/
def Obligations.DecompRejectsWideValue : Prop :=
  ∀ s : State, 65536 ≤ s.codecIn.toNat →
    exec .decomp s = .next (failed .range 0#32 s.codecIn 0x0000FFFF#32 s)

/-- REASM on four digits writes their weighted sum and nothing else (R121, R124). -/
def Obligations.ReasmWritesWeightedSum : Prop :=
  ∀ (s : State) (d0 d1 d2 d3 : Nat), d0 ≤ 15 → d1 ≤ 15 → d2 ≤ 15 → d3 ≤ 15 →
    s.codecNib = BitVec.ofNat 32 (d0 + d1 * 2 ^ 8 + d2 * 2 ^ 16 + d3 * 2 ^ 24) →
    exec .reasm s = .next { s with
      codecOut := BitVec.ofNat 32 (d0 * 2 ^ 12 + d1 * 2 ^ 8 + d2 * 2 ^ 4 + d3), done := true, busy := false }

/-- REASM fails with E_RANGE at the lowest-numbered byte above 15 and leaves CODEC_OUT (R124). -/
def Obligations.ReasmRejectsLowestWideDigit : Prop :=
  ∀ (s : State) (i : Nat), i < 4 → 15 < s.codecNib.toNat / 256 ^ i % 256 →
    (∀ j, j < i → s.codecNib.toNat / 256 ^ j % 256 ≤ 15) →
    exec .reasm s = .next (failed .range (BitVec.ofNat 32 i)
      (BitVec.ofNat 32 (s.codecNib.toNat / 256 ^ i % 256)) 15#32 s)

/-! ## MAC array -/

/-- The sum of the 16 shifted 4-bit partial products is the exact product (R142, R143). -/
def Obligations.NibbleProductIsExact : Prop :=
  ∀ x w : Operand, product (decompose x) (decompose w) = x.toNat * w.toNat ∧
    product (decompose x) (decompose w) ≤ 0xFFFE0001

/-- Every partial sum of a mac, on a loaded array, is the exact sum of the products so far and lies in
[0, R·(2^16 − 1)^2], below 2^43, so the 48-bit signed accumulator neither wraps nor turns negative (R148, R151, R153). -/
def Obligations.MacIsExactWithoutOverflow : Prop :=
  ∀ (s : State) (c : Nat) (xs : List Operand), s.params.legal → s.ArrayCoherent → s.wvalid = true →
    c < s.params.cols → xs.length ≤ s.params.rows →
    (accumulate s c xs 0 0#48).toInt = dot s c xs ∧ dot s c xs ≤ s.params.rows * (2 ^ 16 - 1) ^ 2 ∧
      s.params.rows * (2 ^ 16 - 1) ^ 2 < 2 ^ 43

/-- LOAD with the array's shape and R·C operands in WBUF replaces the whole array, its nibble cache and WVALID, and
nothing else (R144). -/
def Obligations.LoadReplacesArray : Prop :=
  ∀ (s : State) (ws : List Operand), ws.length = s.params.rows * s.params.cols →
    (∀ i (h : i < ws.length), HoldsOperand s.mem (0x01000000 + 4 * i) ws[i]) →
    exec (.load s.params.rows s.params.cols) s = .next { s with
      warr := ws, wnib := ws.map decompose, wvalid := true, done := true, busy := false }

/-- LOAD with another shape fails with E_SHAPE, rows first (R144). -/
def Obligations.LoadRejectsOtherShape : Prop :=
  ∀ (s : State) (rows cols : Nat),
    (rows ≠ s.params.rows →
      exec (.load rows cols) s =
        .next (failed .shape 0#32 (BitVec.ofNat 32 rows) (BitVec.ofNat 32 s.params.rows) s)) ∧
    (rows = s.params.rows → cols ≠ s.params.cols →
      exec (.load rows cols) s =
        .next (failed .shape 1#32 (BitVec.ofNat 32 cols) (BitVec.ofNat 32 s.params.cols) s))

/-- LOAD fails with E_RANGE at the lowest word that is 2^16 or more (R144). -/
def Obligations.LoadRejectsLowestWideWeight : Prop :=
  ∀ (s : State) (i : Nat) (w : Word), i < s.params.rows * s.params.cols →
    (∀ j, j < i → IsOperand s.mem (0x01000000 + 4 * j)) →
    Memory.readWord s.mem (0x01000000 + 4 * i) = some w → 65536 ≤ w.toNat →
    exec (.load s.params.rows s.params.cols) s =
      .next (failed .range (BitVec.ofNat 32 i) w 0x0000FFFF#32 s)

/-- LOAD's commit is atomic: every cell of WARR and WNIB takes its new value from WBUF and WVALID is 1, or none changes
(R145). -/
def Obligations.LoadIsAllOrNothing : Prop :=
  ∀ (s t : State) (rows cols : Nat), exec (.load rows cols) s = .next t →
    (t.wvalid = true ∧ t.warr.length = s.params.rows * s.params.cols ∧ t.wnib = t.warr.map decompose ∧
        ∀ i (h : i < t.warr.length), HoldsOperand s.mem (0x01000000 + 4 * i) t.warr[i]) ∨
      (t.wvalid = s.wvalid ∧ t.warr = s.warr ∧ t.wnib = s.wnib)

/-- COMPUTE with a loaded array, LEN = R, slots below NSLOT and R operands in its input slot writes Σ x[r]·WARR[r][c]
to every accumulator and OBUF element of its output slot, and changes nothing else (R143, R147, R148, R150). -/
def Obligations.ComputeWritesDotProducts : Prop :=
  ∀ (s : State) (islot oslot : Nat) (xs : List Operand), s.params.legal → s.ArrayCoherent → s.wvalid = true →
    islot < s.params.nslot → oslot < s.params.nslot → HoldsInput s islot xs →
    ∃ t, exec (.compute s.params.rows islot oslot) s = .next t ∧
      t = { s with acc := t.acc, mem := t.mem, done := true, busy := false } ∧
      t.acc.length = s.params.cols ∧
      (∀ c, c < s.params.cols →
        t.acc[c]? = some (BitVec.ofNat 48 (dot s c xs)) ∧
        Memory.readDword t.mem (obufAddr s.params oslot c) = some (BitVec.ofNat 64 (dot s c xs))) ∧
      ∀ a, (a < obufAddr s.params oslot 0 ∨ obufAddr s.params oslot 0 + 8 * s.params.cols ≤ a) →
        Memory.readByte t.mem a = Memory.readByte s.mem a

/-- COMPUTE's errors before it reads its input, in the order R147 writes them. -/
def Obligations.ComputeErrorOrder : Prop :=
  ∀ (s : State) (len islot oslot : Nat),
    (s.wvalid = false →
      exec (.compute len islot oslot) s = .next (failed .noArray 0#32 0#32 0#32 s)) ∧
    (s.wvalid = true → len ≠ s.params.rows →
      exec (.compute len islot oslot) s =
        .next (failed .shape 0#32 (BitVec.ofNat 32 len) (BitVec.ofNat 32 s.params.rows) s)) ∧
    (s.wvalid = true → len = s.params.rows → s.params.nslot ≤ islot →
      exec (.compute len islot oslot) s =
        .next (failed .slot 0#32 (BitVec.ofNat 32 islot) (BitVec.ofNat 32 (s.params.nslot - 1)) s)) ∧
    (s.wvalid = true → len = s.params.rows → islot < s.params.nslot → s.params.nslot ≤ oslot →
      exec (.compute len islot oslot) s =
        .next (failed .slot 1#32 (BitVec.ofNat 32 oslot) (BitVec.ofNat 32 (s.params.nslot - 1)) s))

/-- COMPUTE fails with E_RANGE at the lowest row whose input word is 2^16 or more (R147). -/
def Obligations.ComputeRejectsLowestWideInput : Prop :=
  ∀ (s : State) (islot oslot r : Nat) (w : Word), s.wvalid = true → islot < s.params.nslot →
    oslot < s.params.nslot → r < s.params.rows →
    (∀ k, k < r → IsOperand s.mem (0x03000000 + 4 * (islot * s.params.rows + k))) →
    Memory.readWord s.mem (0x03000000 + 4 * (islot * s.params.rows + r)) = some w → 65536 ≤ w.toNat →
    exec (.compute s.params.rows islot oslot) s =
      .next (failed .range (BitVec.ofNat 32 r) w 0x0000FFFF#32 s)

/-! ## Activation -/

/-- ACT with a recognized variant and a slot below NSLOT whose C elements have values transforms each of them, and
changes nothing else (R210, R212). -/
def Obligations.ActTransformsSlot : Prop :=
  ∀ (s : State) (var oslot : Nat) (ds : List Dword), var ≤ 1 → oslot < s.params.nslot →
    ds.length = s.params.cols →
    (∀ c (h : c < ds.length), Memory.readDword s.mem (obufAddr s.params oslot c) = some ds[c]) →
    ∃ t, exec (.act var oslot) s = .next t ∧
      t = { s with mem := t.mem, done := true, busy := false } ∧
      (∀ c (h : c < ds.length), ∃ d, Memory.readDword t.mem (obufAddr s.params oslot c) = some d ∧
        d.toInt = actInt var ds[c].toInt) ∧
      ∀ a, (a < obufAddr s.params oslot 0 ∨ obufAddr s.params oslot 0 + 8 * s.params.cols ≤ a) →
        Memory.readByte t.mem a = Memory.readByte s.mem a

/-- ACT's errors, the variant first (R212). -/
def Obligations.ActErrorOrder : Prop :=
  ∀ (s : State) (var oslot : Nat),
    (2 ≤ var → exec (.act var oslot) s = .next (failed .cfgVariant 0#32 (BitVec.ofNat 32 var) 1#32 s)) ∧
    (var ≤ 1 → s.params.nslot ≤ oslot →
      exec (.act var oslot) s =
        .next (failed .slot 1#32 (BitVec.ofNat 32 oslot) (BitVec.ofNat 32 (s.params.nslot - 1)) s))

/-- The corner values of act, and where applying leaky twice equals applying it once (R211). -/
def Obligations.ActivationCornerValues : Prop :=
  (activate .relu 0#64 = 0#64 ∧ activate .relu (-1#64) = 0#64 ∧
      activate .relu (BitVec.ofNat 64 (2 ^ 63 - 1)) = BitVec.ofNat 64 (2 ^ 63 - 1) ∧
      activate .leaky 0#64 = 0#64 ∧ activate .leaky 7#64 = 7#64 ∧ activate .leaky (-1#64) = -1#64 ∧
      activate .leaky (-7#64) = -1#64 ∧ activate .leaky (-8#64) = -1#64 ∧ activate .leaky (-9#64) = -2#64 ∧
      activate .leaky (-16#64) = -2#64 ∧ activate .leaky (-17#64) = -3#64 ∧
      activate .leaky (BitVec.ofInt 64 (-2 ^ 63)) = BitVec.ofInt 64 (-2 ^ 60) ∧
      activate .leaky (-64#64) = -8#64 ∧ activate .leaky (activate .leaky (-64#64)) = -1#64) ∧
    ∀ x : Dword, activate .leaky (activate .leaky x) = activate .leaky x ↔
      (0 ≤ x.toInt ∨ (-8 ≤ x.toInt ∧ x.toInt ≤ -1))

/-! ## The scheduler -/

/-- `run timing` with a valid configuration writes EVCOUNT = N_EV, the records of its events and the scheduler's own
state, and changes nothing else (R179, R180, R182, R184, R185). -/
def Obligations.RunTimingWritesLog : Prop :=
  ∀ s : State, s.params.legal → ValidConfig s →
    ∃ t, exec (.run .timing) s = .next t ∧
      t = { s with
            mem := t.mem, evcount := t.evcount, free := t.free, occ := t.occ, accept := t.accept
            done := true, busy := false } ∧
      t.evcount.toNat = s.images.toNat * (s.chunks.toNat * (1 + 3 * s.layers.toNat) + 1) ∧
      (log s).length = t.evcount.toNat ∧ HoldsLog t.mem (log s) ∧
      ∀ a, (a < 0x05000000 ∨ 0x05000000 + 32 * t.evcount.toNat ≤ a) →
        Memory.readByte t.mem a = Memory.readByte s.mem a

/-- `run data` with a valid configuration, a loaded array, slots enough and operands in the input slots it uses writes
the log as `run timing` does, and to OBUF slot q the products of input slot q, which no activation changes (R153, R182,
R183); ACC holds the last slot's. -/
def Obligations.RunDataWritesOutputs : Prop :=
  ∀ (s : State) (inp : List (List Operand)), s.params.legal → ValidConfig s → s.ArrayCoherent → s.wvalid = true →
    inp.length = s.images.toNat * s.chunks.toNat * s.layers.toNat → inp.length ≤ s.params.nslot →
    (∀ q (h : q < inp.length), HoldsInput s q inp[q]) →
    ∃ t, exec (.run .data) s = .next t ∧
      t = { s with
            mem := t.mem, acc := t.acc, evcount := t.evcount, free := t.free, occ := t.occ, accept := t.accept
            done := true, busy := false } ∧
      t.evcount.toNat = s.images.toNat * (s.chunks.toNat * (1 + 3 * s.layers.toNat) + 1) ∧
      HoldsLog t.mem (log s) ∧
      (∀ q (h : q < inp.length) c, c < s.params.cols →
        Memory.readDword t.mem (obufAddr s.params q c) = some (BitVec.ofNat 64 (dot s c inp[q])) ∧
        (q + 1 = inp.length → t.acc[c]? = some (BitVec.ofNat 48 (dot s c inp[q])))) ∧
      ∀ a, (a < 0x04000000 ∨ (0x04000000 + 8 * (inp.length * s.params.cols) ≤ a ∧ a < 0x05000000) ∨
          0x05000000 + 32 * t.evcount.toNat ≤ a) →
        Memory.readByte t.mem a = Memory.readByte s.mem a

/-- RUN's configuration errors, in the order R180 writes them. -/
def Obligations.RunConfigErrorOrder : Prop :=
  ∀ (s : State) (m : RunMode),
    (s.layers.toInt < 1 ∨ 8 < s.layers.toInt →
      exec (.run m) s = .next (failed .cfgLayers 0#32 s.layers 8#32 s)) ∧
    (1 ≤ s.layers.toInt → s.layers.toInt ≤ 8 →
      (∀ l, l < s.layers.toNat → (∀ k, k < l → s.actv.toNat / 4 ^ k % 4 ≤ 1) → 1 < s.actv.toNat / 4 ^ l % 4 →
        exec (.run m) s =
          .next (failed .cfgVariant (BitVec.ofNat 32 l) (BitVec.ofNat 32 (s.actv.toNat / 4 ^ l % 4)) 1#32 s)) ∧
      ((∀ l, l < s.layers.toNat → s.actv.toNat / 4 ^ l % 4 ≤ 1) →
        (∀ g, (s.dur.get g).toInt < 0 → (∀ h, stageNumber h < stageNumber g → 0 ≤ (s.dur.get h).toInt) →
          exec (.run m) s =
            .next (failed .cfgDuration (BitVec.ofNat 32 (stageNumber g)) (s.dur.get g) 0x7FFFFFFF#32 s)) ∧
        ((∀ g, 0 ≤ (s.dur.get g).toInt) →
          (s.chunks.toInt ≤ 0 → exec (.run m) s = .next (failed .cfgCount 0#32 s.chunks 0x7FFFFFFF#32 s)) ∧
          (0 < s.chunks.toInt → s.images.toInt ≤ 0 →
            exec (.run m) s = .next (failed .cfgCount 1#32 s.images 0x7FFFFFFF#32 s)) ∧
          (0 < s.chunks.toInt → 0 < s.images.toInt →
            s.params.evmax < s.images.toNat * (s.chunks.toNat * (1 + 3 * s.layers.toNat) + 1) →
            exec (.run m) s = .next (failed .cfgCapacity 0#32
              (BitVec.ofNat 32 (min (s.images.toNat * (s.chunks.toNat * (1 + 3 * s.layers.toNat) + 1)) 0xFFFFFFFF))
              (BitVec.ofNat 32 s.params.evmax) s)))))

/-- The errors of `run data` on a valid configuration, in the order R180 writes them. -/
def Obligations.RunDataErrorOrder : Prop :=
  ∀ s : State, ValidConfig s →
    (s.wvalid = false → exec (.run .data) s = .next (failed .noArray 0#32 0#32 0#32 s)) ∧
    (s.wvalid = true →
      (s.params.nslot < s.images.toNat * s.chunks.toNat * s.layers.toNat →
        exec (.run .data) s = .next (failed .cfgCapacity 1#32
          (BitVec.ofNat 32 (s.images.toNat * s.chunks.toNat * s.layers.toNat)) (BitVec.ofNat 32 s.params.nslot) s)) ∧
      (s.images.toNat * s.chunks.toNat * s.layers.toNat ≤ s.params.nslot →
        ∀ (n : Nat) (w : Word), n < s.images.toNat * s.chunks.toNat * s.layers.toNat * s.params.rows →
          (∀ k, k < n → IsOperand s.mem (0x03000000 + 4 * k)) →
          Memory.readWord s.mem (0x03000000 + 4 * n) = some w → 65536 ≤ w.toNat →
          exec (.run .data) s = .next (failed .range (BitVec.ofNat 32 n) w 0x0000FFFF#32 s)))

/-- N_EV (R181). -/
def Obligations.EventCountFormula : Prop :=
  ∀ (d : PerStage Nat) (images chunks layers : Nat),
    (schedule d images chunks layers).length = images * (chunks * (1 + 3 * layers) + 1)

/-- The log is in submission order: the chunks of an image one after the other, each with its fetch and then its layers'
compute, activate and transfer, and the image's detection after its last chunk (R172, R177, R178). -/
def Obligations.LogIsInSubmissionOrder : Prop :=
  ∀ (d : PerStage Nat) (images chunks layers img : Nat) (jobs : List Job),
    jobs = (schedule d images chunks layers).map (fun e => e.event.job) → img < images →
    jobs[img * (chunks * (1 + 3 * layers) + 1) + chunks * (1 + 3 * layers)]? = some ⟨.detect, none, img, none⟩ ∧
    ∀ k n, k < chunks → n = img * (chunks * (1 + 3 * layers) + 1) + k * (1 + 3 * layers) →
      jobs[n]? = some ⟨.fetch, none, img, some k⟩ ∧
      ∀ l, l < layers →
        jobs[n + 3 * l + 1]? = some ⟨.compute, some l, img, some k⟩ ∧
        jobs[n + 3 * l + 2]? = some ⟨.activate, some l, img, some k⟩ ∧
        jobs[n + 3 * l + 3]? = some ⟨.transfer, some l, img, some k⟩

/-- The timing rule on the log itself: every event starts at the later of the end of its stage's last occupation and its
ready time, and lasts its stage's duration (R173, R174, R175, R178). -/
def Obligations.EveryEventFollowsTimingRule : Prop :=
  ∀ (d : PerStage Nat) (images chunks layers : Nat) (before after : List Event) (e : Event),
    (schedule d images chunks layers).map Emission.event = before ++ e :: after →
    e.start = max (freeBefore before e.job.stage) (readyBefore before e.job) ∧
      e.stop = e.start + d.get e.job.stage

/-- Two occupations of one stage never overlap and stand in the log in order of start; an event that is not a fetch
starts no earlier than the event before it ends, so every chunk's path is a chain (R171, R186). -/
def Obligations.OccupationsNeverOverlap : Prop :=
  ∀ (d : PerStage Nat) (images chunks layers : Nat) (es : List Event),
    es = (schedule d images chunks layers).map Emission.event →
    (∀ (i j : Nat) (ei ej : Event), i < j → es[i]? = some ei → es[j]? = some ej → ei.job.stage = ej.job.stage →
      ei.start ≤ ej.start ∧ ei.stop ≤ ej.start) ∧
    ∀ (i : Nat) (ei ej : Event), es[i]? = some ei → es[i + 1]? = some ej → ej.job.stage ≠ .fetch → ei.stop ≤ ej.start

/-- The buffer bound: OCC is 1 after each fetch and 0 after each layer-0 compute, so it never exceeds one slot, and a
later chunk's fetch starts no earlier than any earlier chunk's layer-0 compute (R187). -/
def Obligations.BufferNeverExceedsOneSlot : Prop :=
  ∀ (d : PerStage Nat) (images chunks layers : Nat), 1 ≤ layers →
    (∀ e ∈ schedule d images chunks layers, e.after.occ ≤ 1 ∧
      (e.event.job.stage = .fetch → e.after.occ = 1) ∧ (isAcceptance e.event = true → e.after.occ = 0)) ∧
    ∀ (i j : Nat) (ei ej : Event), i < j →
      ((schedule d images chunks layers).map Emission.event)[i]? = some ei →
      ((schedule d images chunks layers).map Emission.event)[j]? = some ej →
      isAcceptance ei = true → ej.job.stage = .fetch → ei.start ≤ ej.start

/-- Every fetch but the first starts exactly at the start of the layer-0 compute of the chunk before it, also across
images, and no earlier than the fetch before it ends (R188). -/
def Obligations.FetchStartsAtAcceptance : Prop :=
  ∀ (d : PerStage Nat) (images chunks layers : Nat) (fetches acceptances : List Event), 1 ≤ layers →
    fetches = ((schedule d images chunks layers).map Emission.event).filter (fun e => decide (e.job.stage = .fetch)) →
    acceptances = ((schedule d images chunks layers).map Emission.event).filter isAcceptance →
    fetches.length = images * chunks ∧ acceptances.length = images * chunks ∧
    ∀ (g : Nat) (f next a : Event), fetches[g]? = some f → fetches[g + 1]? = some next → acceptances[g]? = some a →
      next.start = a.start ∧ next.start = max f.stop a.start ∧ f.stop ≤ a.start

/-- Every end time is at most the sum of the durations of the events so far, which for a run that passes validation is at
most N_EV·(2^31 − 1), so at most 2^50: no timestamp overflows its 64 bits (R190). -/
def Obligations.TimestampsNeverOverflow : Prop :=
  ∀ (s : State) (before after : List Event) (e : Event), s.params.legal → ValidConfig s →
    log s = before ++ e :: after →
    e.start ≤ e.stop ∧ e.stop ≤ ((before ++ [e]).map fun x => ((durations s).get x.job.stage)).sum ∧
      ((before ++ [e]).map fun x => ((durations s).get x.job.stage)).sum ≤ (log s).length * (2 ^ 31 - 1) ∧
      (log s).length * (2 ^ 31 - 1) ≤ 2 ^ 50

/-- The log, word by word, is a function of DUR0 to DUR4, CHUNKS, IMAGES and LAYERS alone: two RUNs that pass validation,
in whatever modes and from whatever states, one with ERR set among them, complete and write the same records if these
agree (R189, R238). -/
def Obligations.LogDependsOnConfigurationOnly : Prop :=
  ∀ (s1 s2 : State) (m1 m2 : RunMode), s1.params.legal → s2.params.legal →
    s1.dur = s2.dur → s1.chunks = s2.chunks → s1.images = s2.images → s1.layers = s2.layers →
    ValidConfig s1 → ValidConfig s2 → ValidData s1 m1 → ValidData s2 m2 →
    ∃ t1 t2, exec (.run m1) s1 = .next t1 ∧ exec (.run m2) s2 = .next t2 ∧ t1.evcount = t2.evcount ∧
      t1.evcount.toNat = s1.images.toNat * (s1.chunks.toNat * (1 + 3 * s1.layers.toNat) + 1) ∧
      ∀ n k, n < t1.evcount.toNat → k < 8 →
        (Memory.readWord t1.mem (evlogAddr n k)).isSome = true ∧
          Memory.readWord t1.mem (evlogAddr n k) = Memory.readWord t2.mem (evlogAddr n k)

/-! ## Control, and what holds of every command -/

/-- NOP completes with no effect other than DONE; it does not clear ERR (R220). -/
def Obligations.NopOnlySetsDone : Prop :=
  ∀ s : State, exec .nop s = .next { s with done := true, busy := false }

/-- A command that answers a next state has ended, DONE set and BUSY clear. It succeeded, and left ERR and the error
registers, or it failed, and changed nothing but what R236 lists (R235, R236, R237). -/
def Obligations.CommandsFailFast : Prop :=
  ∀ (i : Instr) (s t : State), exec i s = .next t →
    t.done = true ∧ t.busy = false ∧
      ((t.err = s.err ∧ t.errCode = s.errCode ∧ t.errOpc = s.errOpc ∧ t.errIndex = s.errIndex ∧
          t.errValue = s.errValue ∧ t.errLimit = s.errLimit) ∨
        ∃ code index value limit, code ≠ .none ∧ t = failed code index value limit s)

/-- No command is refused. A command faults exactly at the first word of those it reads that stops it, if nothing has
written that word: of WBUF for LOAD, of its IBUF slot for COMPUTE, of its OBUF slot for ACT, of the first Q IBUF slots for
a data run (R15, R144, R147, R180, R212); the other commands never fault. -/
def Obligations.CommandsStopOnlyAtUnwrittenWords : Prop :=
  ∀ (i : Instr) (s : State),
    ((∃ t, exec i s = .next t) ∨ ∃ off, exec i s = .fault (.uninitRead off)) ∧
    ∀ off, exec i s = .fault (.uninitRead off) ↔
      ∃ n, ReadsWord i s n off ∧ Memory.readWord s.mem off = none ∧
        ∀ k o, k < n → ReadsWord i s k o → ReadsPast i s.mem o

/-- No command writes the interrupt enables, the operand and configuration registers or the command latch, takes an
event from outside or answers the host (R31, R36, R40 to R44, R55). -/
def Obligations.CommandsKeepHostRegisters : Prop :=
  ∀ (i : Instr) (s t : State), exec i s = .next t →
    t.params = s.params ∧ t.doneIe = s.doneIe ∧ t.errIe = s.errIe ∧ t.codecIn = s.codecIn ∧ t.dur = s.dur ∧
      t.chunks = s.chunks ∧ t.images = s.images ∧ t.layers = s.layers ∧ t.actv = s.actv ∧
      t.cmdLatch = s.cmdLatch ∧ t.inputs = s.inputs ∧ t.held = s.held ∧ t.lastResponse = s.lastResponse

/-- No command writes WBUF or IBUF, and only RUN writes EVLOG (R50, R51, R53). -/
def Obligations.CommandsKeepStagingBuffers : Prop :=
  ∀ (i : Instr) (s t : State), s.params.legal → exec i s = .next t →
    (∀ a, a < 0x04000000 → Memory.readByte t.mem a = Memory.readByte s.mem a) ∧
      ((∀ m, i ≠ .run m) → ∀ a, 0x05000000 ≤ a → Memory.readByte t.mem a = Memory.readByte s.mem a)

/-- Only LOAD writes the array, and no command clears WVALID (R46, R48, R78). -/
def Obligations.OnlyLoadWritesArray : Prop :=
  ∀ (i : Instr) (s t : State), exec i s = .next t →
    (s.wvalid = true → t.wvalid = true) ∧
      ((∀ r c, i ≠ .load r c) → t.warr = s.warr ∧ t.wnib = s.wnib ∧ t.wvalid = s.wvalid)

/-! ## The host's accesses -/

/-- The busy hold: while a command runs, an access that R68 does not list is held and changes nothing, and one it lists
completes at once: a read with its register's value, a write of STATUS (StatusWriteClearsByOnes) or of IE with its effect.
A write of IE stores its bits 0 and 1, and a read of IE returns them with 0 above, whether a command runs or not (R31,
R68). -/
def Obligations.BusyHoldsAllButListed : Prop :=
  (∀ (s : State) (a : Access) (rest : List Input), s.busy = true → s.held = none → s.inputs = .access a :: rest →
    (¬ PassesWhileBusy a →
      step s = .next { s with held := some a, inputs := rest, lastResponse := some .held }) ∧
    (PassesWhileBusy a → a.dir = .read → ∃ v, registerWord s a.addr.toNat = some v ∧
      step s = .next { s with inputs := rest, lastResponse := some (.data v) })) ∧
  ∀ (s : State) (v : Word) (rest : List Input), s.held = none →
    (s.inputs = .access (writeAccess 0x01C#32 v) :: rest →
      step s = .next { s with
        doneIe := decide (v.toNat % 2 = 1), errIe := decide (v.toNat / 2 % 2 = 1)
        inputs := rest, lastResponse := some .written }) ∧
    (s.inputs = .access (readAccess 0x01C#32) :: rest →
      step s = .next { s with
        inputs := rest, lastResponse := some (.data (BitVec.ofNat 32 (s.doneIe.toNat + 2 * s.errIe.toNat))) })

/-- A held access completes, once no command runs, with the effect it would have had then, and before any later access:
the step is the one it would be if the access were offered now (R68, R74). That the completion comes at a step at which time
passes is the model's choice (notes/assumptions/2.md). -/
def Obligations.HeldAccessCompletesNext : Prop :=
  ∀ (s : State) (a : Access), s.busy = false → s.held = some a →
    (s.inputs = [] ∨ (∃ b later, s.inputs = .access b :: later) →
      step s = step { s with held := none, inputs := .access a :: s.inputs }) ∧
    ∀ rest, s.inputs = .elapse :: rest → step s = step { s with held := none, inputs := .access a :: rest }

/-- The bus errors: an access of another size, a misaligned one, and one to an offset where nothing is in use (R62, R70,
R71). -/
def Obligations.BusErrorsExactly : Prop :=
  ∀ (s : State) (a : Access) (rest : List Input), Offers s a rest →
    (step s = .fault (.busError a 0#32) ↔
      (a.size ≠ 2#2 ∨ a.addr.toNat % 4 ≠ 0 ∨ ¬ Mapped s.params a.addr.toNat))

/-- A read answers what its offset holds and has no side effect: a control register its value, a word in use of WBUF,
IBUF, OBUF or EVLOG the word stored there, or an uninitialised read if nothing has written it (R15, R23 to R44, R63, R65
to R67, R72; the WARR region: WarrReadsLoadedCells). -/
def Obligations.ReadsHaveNoSideEffect : Prop :=
  (∀ (s t : State) (a : Access) (rest : List Input), Offers s a rest → a.dir = .read → step s = .next t →
    ∃ v, t = { s with inputs := rest, lastResponse := some (.data v) }) ∧
  ∀ (s : State) (a : Access) (rest : List Input), Offers s a rest → a.dir = .read → a.size = 2#2 →
    (∀ v, registerWord s a.addr.toNat = some v →
      step s = .next { s with inputs := rest, lastResponse := some (.data v) }) ∧
    (s.params.legal → a.addr.toNat % 4 = 0 →
      ((0x01000000 ≤ a.addr.toNat ∧ a.addr.toNat < 0x01000000 + 4 * (s.params.rows * s.params.cols)) ∨
        (0x03000000 ≤ a.addr.toNat ∧ a.addr.toNat < 0x03000000 + 4 * (s.params.nslot * s.params.rows)) ∨
        (0x04000000 ≤ a.addr.toNat ∧ a.addr.toNat < 0x04000000 + 8 * (s.params.nslot * s.params.cols)) ∨
        (0x05000000 ≤ a.addr.toNat ∧ a.addr.toNat < 0x05000000 + 32 * s.params.evmax)) →
      (∀ v, Memory.readWord s.mem a.addr.toNat = some v →
        step s = .next { s with inputs := rest, lastResponse := some (.data v) }) ∧
      (Memory.readWord s.mem a.addr.toNat = none → step s = .fault (.uninitRead a.addr.toNat)))

/-- A write to STATUS clears DONE and ERR where it has a 1, and never changes BUSY or WVALID (R29). -/
def Obligations.StatusWriteClearsByOnes : Prop :=
  ∀ (s : State) (v : Word) (rest : List Input), s.held = none →
    s.inputs = .access (writeAccess 0x014#32 v) :: rest →
    ∃ t, step s = .next t ∧
      t = { s with
            done := t.done, err := t.err, inputs := rest, lastResponse := some .written } ∧
      (t.done = true ↔ s.done = true ∧ v.toNat / 2 % 2 = 0) ∧ (t.err = true ↔ s.err = true ∧ v.toNat / 4 % 2 = 0)

/-- A read of STATUS returns BUSY, DONE, ERR, WVALID in bits 0 to 3 and 0 above (R29). -/
def Obligations.StatusReadsFourFlags : Prop :=
  ∀ (s : State) (rest : List Input), s.held = none → s.inputs = .access (readAccess 0x014#32) :: rest →
    step s = .next { s with
      inputs := rest
      lastResponse := some (.data (BitVec.ofNat 32
        (s.busy.toNat + 2 * s.done.toNat + 4 * s.err.toNat + 8 * s.wvalid.toNat))) }

/-- A RW register keeps all 32 bits written to it and reads them back; the write changes no other control register
(R22, R36, R37, R40 to R45). -/
def Obligations.WritableRegistersReadBack : Prop :=
  ∀ (s : State) (off : BitVec 32) (v : Word) (rest : List Input),
    (off = 0x030#32 ∨ off = 0x034#32 ∨ (0x040#32 ≤ off ∧ off ≤ 0x060#32 ∧ off.toNat % 4 = 0)) →
    Offers s (writeAccess off v) (.access (readAccess off) :: rest) →
    ∃ t u, step s = .next t ∧ step t = .next u ∧ u.lastResponse = some (.data v) ∧
      (∀ r, registerAt off.toNat ≠ some r → readReg u r = readReg s r) ∧
      u = { s with
            codecIn := u.codecIn, codecNib := u.codecNib, dur := u.dur, chunks := u.chunks, images := u.images
            layers := u.layers, actv := u.actv, inputs := rest, lastResponse := u.lastResponse }

/-- Writes to read-only registers, to the WARR region and to EVLOG are ignored with a normal response (R22, R64,
R67). -/
def Obligations.ReadOnlyWritesIgnored : Prop :=
  ∀ (s : State) (off : BitVec 32) (v : Word) (rest : List Input), s.params.legal → off.toNat % 4 = 0 →
    (off.toNat < 0x010 ∨ (0x020 ≤ off.toNat ∧ off.toNat < 0x030) ∨ off.toNat = 0x038 ∨ off.toNat = 0x03C ∨
      (0x02000000 ≤ off.toNat ∧ off.toNat < 0x02000000 + 4 * (s.params.rows * s.params.cols)) ∨
      (0x05000000 ≤ off.toNat ∧ off.toNat < 0x05000000 + 32 * s.params.evmax)) →
    Offers s (writeAccess off v) rest →
    step s = .next { s with inputs := rest, lastResponse := some .written }

/-- A write to a word of WBUF, IBUF or OBUF stores all 32 bits and leaves every other byte, so the other half of an OBUF
element too (R63, R65, R66). -/
def Obligations.BufferWriteStoresOneWord : Prop :=
  ∀ (s : State) (off : BitVec 32) (v : Word) (rest : List Input), s.params.legal → off.toNat % 4 = 0 →
    ((0x01000000 ≤ off.toNat ∧ off.toNat < 0x01000000 + 4 * (s.params.rows * s.params.cols)) ∨
      (0x03000000 ≤ off.toNat ∧ off.toNat < 0x03000000 + 4 * (s.params.nslot * s.params.rows)) ∨
      (0x04000000 ≤ off.toNat ∧ off.toNat < 0x04000000 + 8 * (s.params.nslot * s.params.cols))) →
    Offers s (writeAccess off v) (.access (readAccess off) :: rest) →
    ∃ t, step s = .next t ∧
      t = { s with mem := t.mem, inputs := .access (readAccess off) :: rest, lastResponse := some .written } ∧
      step t = .next { t with inputs := rest, lastResponse := some (.data v) } ∧
      ∀ a, (a < off.toNat ∨ off.toNat + 4 ≤ a) → Memory.readByte t.mem a = Memory.readByte s.mem a

/-- WARR word i reads as the zero-extended cell while WVALID = 1, and is an uninitialised read while it is 0 (R64). -/
def Obligations.WarrReadsLoadedCells : Prop :=
  ∀ (s : State) (i : Nat) (rest : List Input), s.params.legal → s.ArrayCoherent →
    i < s.params.rows * s.params.cols →
    Offers s (readAccess (BitVec.ofNat 32 (0x02000000 + 4 * i))) rest →
    (s.wvalid = true →
      step s = .next { s with
        inputs := rest, lastResponse := some (.data ((s.warr.getD i 0#16).setWidth 32)) }) ∧
    (s.wvalid = false → step s = .fault (.uninitRead (0x02000000 + 4 * i)))

/-- A write to CMD sets BUSY and latches the word, and does nothing else (R28). -/
def Obligations.CommandWriteSetsBusy : Prop :=
  ∀ (s : State) (v : Word) (rest : List Input), Offers s (writeAccess 0x010#32 v) rest →
    step s = .next { s with
      busy := true, cmdLatch := v, inputs := rest, lastResponse := some .written }

/-- Writing 1 to CTRL.SRESET gives every control register its reset value and leaves the buffers, the array, the
accumulators and the latch; writing 0 does nothing (R30, R272). -/
def Obligations.SoftResetClearsRegisters : Prop :=
  ∀ (s : State) (v : Word) (rest : List Input), Offers s (writeAccess 0x018#32 v) rest →
    ∃ t, step s = .next t ∧
      (v.toNat % 2 = 0 → t = { s with inputs := rest, lastResponse := some .written }) ∧
      (v.toNat % 2 = 1 →
        (∀ r, readReg t r = readReg (State.resetOf s.params) r) ∧ t.busy = false ∧ t.wvalid = false ∧
          irq t = false ∧ t.mem = s.mem ∧ t.warr = s.warr ∧ t.wnib = s.wnib ∧ t.acc = s.acc ∧
          t.cmdLatch = s.cmdLatch ∧ t.params = s.params ∧ t.inputs = rest)

/-- What each control register reads after hardware reset: the constants, and 0 for all others (R23 to R44, R270). -/
def Obligations.ResetRegisterValues : Prop :=
  ∀ p : Params, p.legal → ∀ r : Reg,
    readReg (State.resetOf p) r =
      match r with
      | .id => 0x4E4D5801#32
      | .paramRc => BitVec.ofNat 32 (p.cols * 2 ^ 16 + p.rows)
      | .paramMem => BitVec.ofNat 32 (0x10300000 + p.nslot)
      | .paramEv => BitVec.ofNat 32 p.evmax
      | _ => 0#32

/-- Hardware reset comes at any time, aborts a running command, drops a held access, and leaves nothing in the buffers
and no array (R270, R271, R273). -/
def Obligations.HardwareResetAbortsAndClears : Prop :=
  ∀ (s : State) (rest : List Input), s.inputs = .hardwareReset :: rest →
    ∃ t, step s = .next t ∧ t.busy = false ∧ t.held = none ∧ irq t = false ∧ t.params = s.params ∧
      t.inputs = rest ∧ (∀ r, readReg t r = readReg (State.resetOf s.params) r) ∧
      (∀ a, Memory.readByte t.mem a = none) ∧ ∀ i, readPlace t (.warr i) = none

/-- The interrupt line is high exactly while an enabled flag is set, in every state: so it is high after every command
that completes with DONE_IE set and after every command that fails with ERR_IE set, a write to STATUS lowers it for the
flags it clears, and a write to IE makes it follow the new enables (R240, R241). -/
def Obligations.IrqFollowsEnabledFlags : Prop :=
  (∀ s : State, irq s = true ↔ (s.done = true ∧ s.doneIe = true) ∨ (s.err = true ∧ s.errIe = true)) ∧
    (∀ (i : Instr) (s t : State), exec i s = .next t →
      (irq t = true ↔ s.doneIe = true ∨ (t.err = true ∧ s.errIe = true))) ∧
    ∀ (s : State) (v : Word) (rest : List Input), s.held = none →
      (s.inputs = .access (writeAccess 0x014#32 v) :: rest → ∃ t, step s = .next t ∧
        (irq t = true ↔ (s.done = true ∧ v.toNat / 2 % 2 = 0 ∧ s.doneIe = true) ∨
          (s.err = true ∧ v.toNat / 4 % 2 = 0 ∧ s.errIe = true))) ∧
      (s.inputs = .access (writeAccess 0x01C#32 v) :: rest → ∃ t, step s = .next t ∧
        (irq t = true ↔ (s.done = true ∧ v.toNat % 2 = 1) ∨ (s.err = true ∧ v.toNat / 2 % 2 = 1)))

/-! ## The whole machine -/

/-- Right after hardware reset the invariant holds, for every legal instance and for `State.reset` (R270). The values of
ACC and OCC there are the model's choice (notes/assumptions/3.md). -/
def Obligations.ResetSatisfiesInvariant : Prop :=
  (∀ p : Params, p.legal → (State.resetOf p).Inv) ∧ State.reset.Inv

/-- Every step keeps the invariant: the memory's canonical form and map, the coherence of the nibble cache, the
accumulator file, the buffer bound, a log that holds what EVCOUNT counts, a 16-bit CODEC_OUT, an error code with every
ERR, and a hold that holds only what R68 does not let pass. -/
def Obligations.StepKeepsInvariant : Prop :=
  ∀ s t : State, s.Inv → step s = .next t → t.Inv

/-- A started command completes: once no event is left the next step lowers BUSY, unless the command reads a word that
nothing has written (R15, R279). That a step with no event left is one at which the command completes is the model's
choice (notes/assumptions/2.md); R279 asks only that it completes eventually. -/
def Obligations.StartedCommandCompletes : Prop :=
  ∀ s : State, s.busy = true → s.inputs = [] →
    (∃ t, step s = .next t ∧ t.busy = false ∧ t.done = true) ∨
      ∃ i n off, decode s.cmdLatch = .ok i ∧ ReadsWord i s n off ∧ Memory.readWord s.mem off = none ∧
        step s = .fault (.uninitRead off)
end

