-- ==== Sys2Proof/Laws/Decode.lean ====
section
/-! SUPPORT. Fields and words as numbers, so that facts about encodings become arithmetic. -/

namespace Sys2Proof

theorem fieldOf_eq (w : Word) (lo n : Nat) : fieldOf w lo n = w.toNat / 2 ^ lo % 2 ^ n := by
  simp only [fieldOf, BitVec.extractLsb'_toNat, Nat.shiftRight_eq_div_pow]

theorem opcOf_toNat (w : Word) : (opcOf w).toNat = w.toNat / 2 ^ 28 := by
  have := w.isLt
  simp only [opcOf, BitVec.extractLsb'_toNat, Nat.shiftRight_eq_div_pow]
  omega

theorem commandWord_toNat {opc fields : Nat} (h : fields < 2 ^ 28) :
    (commandWord opc fields).toNat = opc % 16 * 2 ^ 28 + fields := by
  simp only [commandWord, fieldAt, BitVec.toNat_ofNat]
  omega

/-- A field below the opcode is read from the fields alone. -/
theorem fieldOf_commandWord {opc fields lo n : Nat} (h : fields < 2 ^ 28) (hn : lo + n ≤ 28) :
    fieldOf (commandWord opc fields) lo n = fields / 2 ^ lo % 2 ^ n := by
  have hsplit : opc % 16 * 2 ^ 28 = 2 ^ lo * (2 ^ n * (2 ^ (28 - lo - n) * (opc % 16))) := by
    rw [← Nat.mul_assoc, ← Nat.mul_assoc, ← Nat.pow_add, ← Nat.pow_add, show lo + n + (28 - lo - n) = 28 by omega,
      Nat.mul_comm]
  rw [fieldOf_eq, commandWord_toNat h, hsplit, Nat.mul_add_div (Nat.two_pow_pos _), Nat.mul_add_mod]

theorem fieldAt_lt (lo n v : Nat) : fieldAt lo n v < 2 ^ (lo + n) := by
  rw [fieldAt, Nat.pow_add, Nat.mul_comm]
  exact Nat.mul_lt_mul_of_pos_left (Nat.mod_lt _ (Nat.two_pow_pos n)) (Nat.two_pow_pos lo)

end Sys2Proof
end

