-- ==== Sys2Proof/Laws/Memory.lean ====
section
/-! SUPPORT. What the memory operations do: a read after a write, the bytes a write leaves alone, the canonical form
every write keeps. -/

namespace Sys2Proof.Machine

/-! ## Bytes -/

@[simp] theorem Memory.readByte_nil (a : Nat) : Memory.readByte [] a = none := rfl

theorem Memory.readByte_append (m n : Memory) (a : Nat) :
    Memory.readByte (m ++ n) a = (Memory.readByte m a).or (Memory.readByte n a) := by
  induction m with
  | nil => simp [Memory.readByte]
  | cons c m ih =>
    by_cases h : c.1 = a
    · simp [Memory.readByte, h]
    · simp [Memory.readByte, h, ih]

/-- Filtering by offset keeps what is stored at an offset that passes and drops it elsewhere. -/
theorem Memory.readByte_filter (p : Nat → Bool) (m : Memory) (a : Nat) :
    Memory.readByte (m.filter fun c => p c.1) a = if p a then Memory.readByte m a else none := by
  induction m with
  | nil => simp
  | cons c m ih =>
    by_cases hp : p c.1
    · by_cases h : c.1 = a
      · subst h; simp [hp, Memory.readByte]
      · simp [hp, Memory.readByte, h, ih]
    · by_cases h : c.1 = a
      · subst h; simp [hp, ih]
      · simp [hp, Memory.readByte, h, ih]

theorem Memory.readByte_bytesAt (bs : List Byte) (a x : Nat) :
    Memory.readByte (bytesAt a bs) x = if a ≤ x then bs[x - a]? else none := by
  induction bs generalizing a with
  | nil => simp [bytesAt]
  | cons b bs ih =>
    by_cases h : a = x
    · subst h; simp [bytesAt, Memory.readByte]
    · rw [bytesAt, Memory.readByte, if_neg h, ih]
      by_cases hx : a ≤ x
      · rw [if_pos hx, if_pos (by omega), show x - a = (x - (a + 1)) + 1 by omega]
        simp
      · rw [if_neg hx, if_neg (by omega)]

/-- The one law of writing: inside the block the new bytes, elsewhere the old ones, whatever the memory. -/
theorem Memory.readByte_writeBytes (m : Memory) (a : Nat) (bs : List Byte) (x : Nat) :
    Memory.readByte (Memory.writeBytes m a bs) x =
      if a ≤ x ∧ x < a + bs.length then bs[x - a]? else Memory.readByte m x := by
  rw [Memory.writeBytes, Memory.readByte_append, Memory.readByte_append,
    Memory.readByte_filter (fun y => decide (y < a)), Memory.readByte_filter (fun y => decide (a + bs.length ≤ y)),
    Memory.readByte_bytesAt]
  by_cases h1 : x < a
  · rw [if_pos (by simpa using h1), if_neg (by omega), if_neg (by simp; omega), if_neg (by omega)]; simp
  · rw [if_neg (by simpa using h1), if_pos (by omega)]
    by_cases h2 : x < a + bs.length
    · rw [if_neg (by simp; omega), if_pos (by omega)]; simp
    · rw [if_pos (by simp; omega), if_neg (by omega), List.getElem?_eq_none (by omega)]; simp

/-- A write stores bytes in its block only. -/
theorem Memory.mem_writeBytes {m : Memory} {a : Nat} {bs : List Byte} {c : Host.Cell}
    (h : c ∈ Memory.writeBytes m a bs) : c ∈ m ∨ (a ≤ c.1 ∧ c.1 < a + bs.length) := by
  have hb : ∀ (bs : List Byte) (a : Nat), c ∈ bytesAt a bs → a ≤ c.1 ∧ c.1 < a + bs.length := by
    intro bs
    induction bs with
    | nil => intro a h; simp [bytesAt] at h
    | cons b bs ih =>
      intro a h
      rcases List.mem_cons.1 h with rfl | h
      · simp
      · have := ih (a + 1) h
        simp only [List.length_cons]; omega
  simp only [Memory.writeBytes, List.mem_append, List.mem_filter] at h
  rcases h with (h | h) | h
  · exact .inl h.1
  · exact .inr (hb bs a h)
  · exact .inl h.1

theorem bytesAt_pairwise (bs : List Byte) (a : Nat) :
    (bytesAt a bs).Pairwise (fun x y => x.1 < y.1) ∧ ∀ c ∈ bytesAt a bs, a ≤ c.1 ∧ c.1 < a + bs.length := by
  induction bs generalizing a with
  | nil => simp [bytesAt]
  | cons b bs ih =>
    obtain ⟨h1, h2⟩ := ih (a + 1)
    refine ⟨?_, ?_⟩
    · refine List.pairwise_cons.2 ⟨fun c hc => ?_, h1⟩
      have := h2 c hc; simp only; omega
    · intro c hc
      rcases List.mem_cons.1 hc with rfl | hc
      · simp
      · have := h2 c hc; simp only [List.length_cons]; omega

/-- Every write keeps the canonical form. -/
theorem Memory.wf_writeBytes {m : Memory} (h : m.wf) (a : Nat) (bs : List Byte) :
    (Memory.writeBytes m a bs).wf := by
  obtain ⟨h1, h2⟩ := bytesAt_pairwise bs a
  refine List.pairwise_append.2 ⟨List.pairwise_append.2 ⟨h.filter _, h1, ?_⟩, h.filter _, ?_⟩
  · intro c hc d hd
    have := h2 d hd
    simp only [List.mem_filter, decide_eq_true_eq] at hc; omega
  · intro c hc d hd
    simp only [List.mem_append, List.mem_filter, decide_eq_true_eq] at hc hd
    rcases hc with hc | hc
    · omega
    · have := h2 c hc; omega

/-! ## Words -/

@[simp] theorem wordBytes_length (w : Word) : (wordBytes w).length = 4 := rfl

@[simp] theorem flatMap_wordBytes_length (ws : List Word) : (ws.flatMap wordBytes).length = 4 * ws.length := by
  induction ws with
  | nil => rfl
  | cons w ws ih => simp only [List.flatMap_cons, List.length_append, wordBytes_length, ih, List.length_cons]; omega

theorem flatMap_wordBytes_getElem? (ws : List Word) (i j : Nat) (hj : j < 4) :
    (ws.flatMap wordBytes)[4 * i + j]? = (ws[i]?).bind fun w => (wordBytes w)[j]? := by
  induction ws generalizing i with
  | nil => simp
  | cons w ws ih =>
    cases i with
    | zero => simp [List.getElem?_append, hj]
    | succ i =>
      have h : ¬ 4 * (i + 1) + j < 4 := by omega
      rw [List.flatMap_cons, List.getElem?_append, wordBytes_length, if_neg h,
        show 4 * (i + 1) + j - 4 = 4 * i + j by omega, ih]
      rfl

theorem word_of_bytes (w : Word) :
    w.extractLsb' 24 8 ++ w.extractLsb' 16 8 ++ w.extractLsb' 8 8 ++ w.extractLsb' 0 8 = w := by
  ext i hi
  simp only [BitVec.getElem_append, BitVec.getElem_extractLsb']
  split
  · simp [BitVec.getLsbD_eq_getElem hi]
  · split
    · rw [show 8 + (i - 8) = i by omega, BitVec.getLsbD_eq_getElem hi]
    · split
      · rw [show 16 + (i - 8 - 8) = i by omega, BitVec.getLsbD_eq_getElem hi]
      · rw [show 24 + (i - 8 - 8 - 8) = i by omega, BitVec.getLsbD_eq_getElem hi]

/-- Read back word i of a block of words. -/
theorem Memory.readWord_writeWords (m : Memory) (a : Nat) (ws : List Word) {i : Nat} (hi : i < ws.length) :
    Memory.readWord (Memory.writeWords m a ws) (a + 4 * i) = ws[i]? := by
  have hb : ∀ j, j < 4 → Memory.readByte (Memory.writeWords m a ws) (a + 4 * i + j) = (wordBytes ws[i])[j]? := by
    intro j hj
    rw [Memory.writeWords, Memory.readByte_writeBytes, flatMap_wordBytes_length, if_pos (by omega),
      show a + 4 * i + j - a = 4 * i + j by omega, flatMap_wordBytes_getElem? ws i j hj]
    simp [hi]
  have h0 := hb 0 (by omega)
  rw [Nat.add_zero] at h0
  rw [Memory.readWord, h0, hb 1 (by omega), hb 2 (by omega), hb 3 (by omega)]
  simp only [wordBytes, List.getElem?_cons_zero, List.getElem?_cons_succ, List.getElem?_eq_getElem hi]
  rw [word_of_bytes]

/-- A word apart from the block reads as before. -/
theorem Memory.readWord_writeWords_apart (m : Memory) (a : Nat) (ws : List Word) {x : Nat}
    (h : x + 4 ≤ a ∨ a + 4 * ws.length ≤ x) :
    Memory.readWord (Memory.writeWords m a ws) x = Memory.readWord m x := by
  have hb : ∀ j, j < 4 → Memory.readByte (Memory.writeWords m a ws) (x + j) = Memory.readByte m (x + j) := by
    intro j hj
    rw [Memory.writeWords, Memory.readByte_writeBytes, flatMap_wordBytes_length, if_neg (by omega)]
  have h0 := hb 0 (by omega)
  rw [Nat.add_zero] at h0
  rw [Memory.readWord, Memory.readWord, h0, hb 1 (by omega), hb 2 (by omega), hb 3 (by omega)]

/-- A byte apart from the block reads as before. -/
theorem Memory.readByte_writeWords_apart (m : Memory) (a : Nat) (ws : List Word) {x : Nat}
    (h : x < a ∨ a + 4 * ws.length ≤ x) :
    Memory.readByte (Memory.writeWords m a ws) x = Memory.readByte m x := by
  rw [Memory.writeWords, Memory.readByte_writeBytes, flatMap_wordBytes_length, if_neg (by omega)]

theorem Memory.wf_writeWords {m : Memory} (h : m.wf) (a : Nat) (ws : List Word) :
    (Memory.writeWords m a ws).wf := Memory.wf_writeBytes h a _

theorem Memory.mem_writeWords {m : Memory} {a : Nat} {ws : List Word} {c : Host.Cell}
    (h : c ∈ Memory.writeWords m a ws) : c ∈ m ∨ (a ≤ c.1 ∧ c.1 < a + 4 * ws.length) := by
  have h' := Memory.mem_writeBytes h
  rwa [flatMap_wordBytes_length] at h'

/-! ## 64-bit values -/

@[simp] theorem dwordWords_length (d : Dword) : (dwordWords d).length = 2 := rfl

@[simp] theorem flatMap_dwordWords_length (ds : List Dword) : (ds.flatMap dwordWords).length = 2 * ds.length := by
  induction ds with
  | nil => rfl
  | cons d ds ih => simp only [List.flatMap_cons, List.length_append, dwordWords_length, ih, List.length_cons]; omega

theorem flatMap_dwordWords_getElem? (ds : List Dword) (i j : Nat) (hj : j < 2) :
    (ds.flatMap dwordWords)[2 * i + j]? = (ds[i]?).bind fun d => (dwordWords d)[j]? := by
  induction ds generalizing i with
  | nil => simp
  | cons d ds ih =>
    cases i with
    | zero => simp [List.getElem?_append, hj]
    | succ i =>
      have h : ¬ 2 * (i + 1) + j < 2 := by omega
      rw [List.flatMap_cons, List.getElem?_append, dwordWords_length, if_neg h,
        show 2 * (i + 1) + j - 2 = 2 * i + j by omega, ih]
      rfl

theorem dword_of_words (d : Dword) : d.extractLsb' 32 32 ++ d.extractLsb' 0 32 = d := by
  ext i hi
  simp only [BitVec.getElem_append, BitVec.getElem_extractLsb']
  split
  · simp [BitVec.getLsbD_eq_getElem hi]
  · rw [show 32 + (i - 32) = i by omega, BitVec.getLsbD_eq_getElem hi]

/-- Read back value i of a block of 64-bit values. -/
theorem Memory.readDword_writeDwords (m : Memory) (a : Nat) (ds : List Dword) {i : Nat} (hi : i < ds.length) :
    Memory.readDword (Memory.writeDwords m a ds) (a + 8 * i) = ds[i]? := by
  have hw : ∀ j, j < 2 →
      Memory.readWord (Memory.writeDwords m a ds) (a + 8 * i + 4 * j) = (dwordWords ds[i])[j]? := by
    intro j hj
    rw [Memory.writeDwords, show a + 8 * i + 4 * j = a + 4 * (2 * i + j) by omega,
      Memory.readWord_writeWords m a _ (by rw [flatMap_dwordWords_length]; omega),
      flatMap_dwordWords_getElem? ds i j hj]
    simp [hi]
  have h0 := hw 0 (by omega)
  have h1 := hw 1 (by omega)
  rw [Nat.mul_zero, Nat.add_zero] at h0
  rw [Memory.readDword, h0, show a + 8 * i + 4 = a + 8 * i + 4 * 1 by omega, h1]
  simp only [dwordWords, List.getElem?_cons_zero, List.getElem?_cons_succ, List.getElem?_eq_getElem hi]
  rw [dword_of_words]

theorem Memory.readByte_writeDwords_apart (m : Memory) (a : Nat) (ds : List Dword) {x : Nat}
    (h : x < a ∨ a + 8 * ds.length ≤ x) :
    Memory.readByte (Memory.writeDwords m a ds) x = Memory.readByte m x := by
  rw [Memory.writeDwords, Memory.readByte_writeWords_apart]
  rw [flatMap_dwordWords_length]; omega

theorem Memory.readWord_writeDwords_apart (m : Memory) (a : Nat) (ds : List Dword) {x : Nat}
    (h : x + 4 ≤ a ∨ a + 8 * ds.length ≤ x) :
    Memory.readWord (Memory.writeDwords m a ds) x = Memory.readWord m x := by
  rw [Memory.writeDwords, Memory.readWord_writeWords_apart]
  rw [flatMap_dwordWords_length]; omega

theorem Memory.wf_writeDwords {m : Memory} (h : m.wf) (a : Nat) (ds : List Dword) :
    (Memory.writeDwords m a ds).wf := Memory.wf_writeWords h a _

theorem Memory.mem_writeDwords {m : Memory} {a : Nat} {ds : List Dword} {c : Host.Cell}
    (h : c ∈ Memory.writeDwords m a ds) : c ∈ m ∨ (a ≤ c.1 ∧ c.1 < a + 8 * ds.length) := by
  have h' := Memory.mem_writeWords h
  rw [flatMap_dwordWords_length, ← Nat.mul_assoc] at h'
  exact h'

end Sys2Proof.Machine
end

