-- ==== Sys2Proof/Laws/Ops.lean ====
section
/-! SUPPORT. What the shared operations can do, said once: how a command ends, what reading operands and 64-bit values
answers, and the values of the stages. -/

namespace Sys2Proof.Machine

/-! ## How a command ends -/

@[simp] theorem finish_ok (s u : State) : finish s (.ok u) = .next (succeed u) := rfl

@[simp] theorem finish_command (s : State) (e : CmdError) :
    finish s (.error (.command e)) = .next (failCommand e s) := rfl

@[simp] theorem finish_uninit (s : State) (off : Nat) :
    finish s (.error (.uninit off)) = .fault (.uninitRead off) := rfl

/-- A command that answers a next state has succeeded with its writes or failed with one error. -/
theorem finish_next {s t : State} {r : Except Stop State} (h : finish s r = .next t) :
    (∃ u, r = .ok u ∧ t = succeed u) ∨ ∃ e, r = .error (.command e) ∧ t = failCommand e s := by
  match r, h with
  | .ok u, h => exact .inl ⟨u, rfl, by simpa using h.symm⟩
  | .error (.command e), h => exact .inr ⟨e, rfl, by simpa using h.symm⟩
  | .error (.uninit off), h => cases h

/-- The same for a command whose checks make an `x` that its writes then use. -/
theorem finish_map_next {α : Type} {s t : State} {r : Except Stop α} {f : α → State}
    (h : finish s (r.map f) = .next t) :
    (∃ x, r = .ok x ∧ t = succeed (f x)) ∨ ∃ e, r = .error (.command e) ∧ t = failCommand e s := by
  match r, h with
  | .ok x, h => exact .inl ⟨x, rfl, by simpa [Except.map] using h.symm⟩
  | .error (.command e), h => exact .inr ⟨e, rfl, by simpa [Except.map] using h.symm⟩
  | .error (.uninit off), h => cases h

@[simp] theorem finish_map_ok {α : Type} (s : State) (x : α) (f : α → State) :
    finish s ((Except.ok x).map f) = .next (succeed (f x)) := rfl

@[simp] theorem finish_map_command {α : Type} (s : State) (e : CmdError) (f : α → State) :
    finish s ((Except.error (.command e)).map f) = .next (failCommand e s) := rfl

@[simp] theorem finish_map_raise {α : Type} (s : State) (code : ErrorCode) (index value limit : Word) (f : α → State) :
    finish s ((raise code index value limit).map f) =
      .next (failCommand { code := code, index := index, value := value, limit := limit } s) := rfl

/-- No command is refused, and the only fault is an uninitialised read. -/
theorem finish_cases (s : State) (r : Except Stop State) :
    (∃ u, r = .ok u ∧ finish s r = .next (succeed u)) ∨
      (∃ e, r = .error (.command e) ∧ finish s r = .next (failCommand e s)) ∨
      ∃ off, r = .error (.uninit off) ∧ finish s r = .fault (.uninitRead off) := by
  match r with
  | .ok u => exact .inl ⟨u, rfl, rfl⟩
  | .error (.command e) => exact .inr (.inl ⟨e, rfl, rfl⟩)
  | .error (.uninit off) => exact .inr (.inr ⟨off, rfl, rfl⟩)

/-! ## Operand words -/

/-- The upper half of a word is 0 exactly when the word is below 2^16. -/
theorem upperHalf_eq_zero (w : Word) : w.extractLsb' 16 16 = 0#16 ↔ w.toNat < 65536 := by
  rw [← BitVec.toNat_inj]
  simp only [BitVec.extractLsb'_toNat, BitVec.toNat_ofNat, Nat.shiftRight_eq_div_pow]
  have := w.isLt
  omega

/-- A word below 2^16 is the zero-extension of its lower half. -/
theorem lowerHalf_extend {w : Word} (h : w.toNat < 65536) : (w.setWidth 16).setWidth 32 = w := by
  rw [← BitVec.toNat_inj]
  simp only [BitVec.toNat_setWidth]
  have := w.isLt
  omega

/-- Reading succeeds exactly with the operands whose zero-extensions stand in memory. -/
theorem readOperands_eq_ok (m : Memory) (base n i : Nat) (xs : List Operand) :
    readOperands m base n i = .ok xs ↔
      xs.length = n ∧ ∀ j (h : j < xs.length), Memory.readWord m (base + 4 * (i + j)) = some (xs[j].setWidth 32) := by
  induction n generalizing i xs with
  | zero =>
    simp only [readOperands, Except.ok.injEq]
    refine ⟨fun h => by subst h; simp, fun h => (List.length_eq_zero_iff.1 h.1).symm⟩
  | succ n ih =>
    constructor
    · intro h
      rw [readOperands] at h
      split at h
      · cases h
      · rename_i w hw
        split at h
        · rename_i hz
          split at h
          · rename_i ys hys
            obtain ⟨hl, hj⟩ := (ih (i + 1) ys).1 hys
            simp only [Except.ok.injEq] at h
            subst h
            refine ⟨by simp [hl], fun j hj' => ?_⟩
            cases j with
            | zero => simp [hw, lowerHalf_extend ((upperHalf_eq_zero w).1 hz)]
            | succ j =>
              have := hj j (by simpa using hj')
              rw [show i + (j + 1) = i + 1 + j by omega]
              simpa using this
          · cases h
        · cases h
    · rintro ⟨hl, hj⟩
      match xs, hl, hj with
      | x :: xs, hl, hj =>
        have h0 := hj 0 (by simp)
        have hrest := (ih (i + 1) xs).2 ⟨by simpa using hl, fun j h => by
          have := hj (j + 1) (by simpa using h)
          rw [show i + 1 + j = i + (j + 1) by omega]
          simpa using this⟩
        rw [Nat.add_zero, List.getElem_cons_zero] at h0
        have hx : (x.setWidth 32).toNat < 65536 := by
          rw [BitVec.toNat_setWidth]
          have := x.isLt
          omega
        rw [readOperands, h0]
        simp only [(upperHalf_eq_zero _).2 hx, if_true, hrest, Except.ok.injEq, List.cons.injEq, and_true]
        rw [← BitVec.toNat_inj]
        simp only [BitVec.toNat_setWidth]
        have := x.isLt
        omega

/-- The element at which reading stops: every word before it holds an operand. -/
theorem readOperands_eq_error {m : Memory} {base n i : Nat} {e : Stop} (h : readOperands m base n i = .error e) :
    ∃ j, j < n ∧ (∀ k, k < j → ∃ w, Memory.readWord m (base + 4 * (i + k)) = some w ∧ w.toNat < 65536) ∧
      ((Memory.readWord m (base + 4 * (i + j)) = none ∧ e = .uninit (base + 4 * (i + j))) ∨
        ∃ w, Memory.readWord m (base + 4 * (i + j)) = some w ∧ 65536 ≤ w.toNat ∧
          e = .command { code := .range, index := ctx (i + j), value := w, limit := 0xFFFF#32 }) := by
  induction n generalizing i with
  | zero => cases h
  | succ n ih =>
    rw [readOperands] at h
    split at h
    · rename_i hw
      simp only [Except.error.injEq] at h
      exact ⟨0, by omega, by omega, .inl ⟨by simpa using hw, by simpa using h.symm⟩⟩
    · rename_i w hw
      split at h
      · rename_i hz
        split at h
        · cases h
        · rename_i e' he'
          simp only [Except.error.injEq] at h
          subst h
          obtain ⟨j, hj, hbefore, hat⟩ := ih he'
          refine ⟨j + 1, by omega, fun k hk => ?_, ?_⟩
          · cases k with
            | zero => exact ⟨w, by simpa using hw, (upperHalf_eq_zero w).1 hz⟩
            | succ k => simpa [show i + 1 + k = i + (k + 1) by omega] using hbefore k (by omega)
          · simpa [show i + 1 + j = i + (j + 1) by omega] using hat
      · rename_i hz
        simp only [raise, Except.error.injEq] at h
        refine ⟨0, by omega, by omega, .inr ⟨w, by simpa using hw, ?_, by simpa using h.symm⟩⟩
        rw [upperHalf_eq_zero] at hz
        omega

/-- The first word that is not an operand stops the reading with E_RANGE. -/
theorem readOperands_range {m : Memory} {base n i j : Nat} {w : Word} (hj : j < n)
    (hbefore : ∀ k, k < j → ∃ v, Memory.readWord m (base + 4 * (i + k)) = some v ∧ v.toNat < 65536)
    (hw : Memory.readWord m (base + 4 * (i + j)) = some w) (hbig : 65536 ≤ w.toNat) :
    readOperands m base n i = raise .range (ctx (i + j)) w 0xFFFF#32 := by
  induction n generalizing i j with
  | zero => omega
  | succ n ih =>
    cases j with
    | zero =>
      rw [Nat.add_zero] at hw
      have hz : ¬ w.extractLsb' 16 16 = 0#16 := by rw [upperHalf_eq_zero]; omega
      rw [readOperands, hw]
      simp only [hz, if_false, Nat.add_zero]
    | succ j =>
      obtain ⟨v, hv, hlow⟩ := hbefore 0 (by omega)
      rw [Nat.add_zero] at hv
      have hrest := ih (i := i + 1) (j := j) (by omega)
        (fun k hk => by simpa [show i + 1 + k = i + (k + 1) by omega] using hbefore (k + 1) (by omega))
        (by simpa [show i + 1 + j = i + (j + 1) by omega] using hw)
      rw [readOperands, hv]
      simp only [(upperHalf_eq_zero v).2 hlow, if_true, hrest, raise]
      rw [show i + 1 + j = i + (j + 1) by omega]

/-- The first word that nothing has written stops the reading, if every word before it holds an operand. -/
theorem readOperands_unwritten {m : Memory} {base n i j : Nat} (hj : j < n)
    (hbefore : ∀ k, k < j → ∃ v, Memory.readWord m (base + 4 * (i + k)) = some v ∧ v.toNat < 65536)
    (hw : Memory.readWord m (base + 4 * (i + j)) = none) :
    readOperands m base n i = .error (.uninit (base + 4 * (i + j))) := by
  induction n generalizing i j with
  | zero => omega
  | succ n ih =>
    cases j with
    | zero =>
      rw [Nat.add_zero] at hw
      rw [readOperands, hw]
      rfl
    | succ j =>
      obtain ⟨v, hv, hlow⟩ := hbefore 0 (by omega)
      rw [Nat.add_zero] at hv
      have hrest := ih (i := i + 1) (j := j) (by omega)
        (fun k hk => by simpa [show i + 1 + k = i + (k + 1) by omega] using hbefore (k + 1) (by omega))
        (by simpa [show i + 1 + j = i + (j + 1) by omega] using hw)
      rw [readOperands, hv]
      simp only [(upperHalf_eq_zero v).2 hlow, if_true, hrest]
      rw [show i + 1 + j = i + (j + 1) by omega]

/-! ## 64-bit values -/

/-- Reading succeeds exactly with the values that stand in memory. -/
theorem readDwords_eq_ok (m : Memory) (a n : Nat) (ds : List Dword) :
    readDwords m a n = .ok ds ↔
      ds.length = n ∧ ∀ j (h : j < ds.length), Memory.readDword m (a + 8 * j) = some ds[j] := by
  induction n generalizing a ds with
  | zero =>
    simp only [readDwords, Except.ok.injEq]
    refine ⟨fun h => by subst h; simp, fun h => (List.length_eq_zero_iff.1 h.1).symm⟩
  | succ n ih =>
    constructor
    · intro h
      rw [readDwords] at h
      split at h
      · cases h
      · rename_i d hd
        split at h
        · rename_i es hes
          obtain ⟨hl, hj⟩ := (ih (a + 8) es).1 hes
          simp only [Except.ok.injEq] at h
          subst h
          refine ⟨by simp [hl], fun j hj' => ?_⟩
          cases j with
          | zero => simpa using hd
          | succ j =>
            have := hj j (by simpa using hj')
            rw [show a + 8 * (j + 1) = a + 8 + 8 * j by omega]
            simpa using this
        · cases h
    · rintro ⟨hl, hj⟩
      match ds, hl, hj with
      | d :: ds, hl, hj =>
        have h0 := hj 0 (by simp)
        have hrest := (ih (a + 8) ds).2 ⟨by simpa using hl, fun j h => by
          have := hj (j + 1) (by simpa using h)
          rw [show a + 8 + 8 * j = a + 8 * (j + 1) by omega]
          simpa using this⟩
        rw [Nat.mul_zero, Nat.add_zero, List.getElem_cons_zero] at h0
        rw [readDwords, h0]
        simp only [hrest]

/-- A 64-bit value is written when both its words are. -/
theorem Memory.readDword_isSome (m : Memory) (a : Nat) :
    (Memory.readDword m a).isSome = ((Memory.readWord m a).isSome && (Memory.readWord m (a + 4)).isSome) := by
  rw [Memory.readDword]
  cases Memory.readWord m a <;> cases Memory.readWord m (a + 4) <;> rfl

/-- Reading 64-bit values stops exactly at the first word that nothing has written. -/
theorem readDwords_eq_error (m : Memory) (a n : Nat) (e : Stop) :
    readDwords m a n = .error e ↔
      ∃ j, j < 2 * n ∧ e = .uninit (a + 4 * j) ∧ Memory.readWord m (a + 4 * j) = none ∧
        ∀ k, k < j → (Memory.readWord m (a + 4 * k)).isSome = true := by
  induction n generalizing a with
  | zero =>
    refine ⟨(fun h => nomatch h), ?_⟩
    rintro ⟨j, hj, -⟩
    omega
  | succ n ih =>
    rw [readDwords]
    cases hlo : Memory.readWord m a with
    | none =>
      simp only [Memory.readDword, hlo, Option.isSome_none, Bool.false_eq_true, if_false, Except.error.injEq]
      constructor
      · rintro rfl
        exact ⟨0, by omega, by simp, by simpa using hlo, by omega⟩
      · rintro ⟨j, hj, rfl, hnone, hbefore⟩
        cases j with
        | zero => simp
        | succ j => simpa [hlo] using hbefore 0 (by omega)
    | some lo =>
      cases hhi : Memory.readWord m (a + 4) with
      | none =>
        simp only [Memory.readDword, hlo, hhi, Option.isSome_some, if_true, Except.error.injEq]
        constructor
        · rintro rfl
          exact ⟨1, by omega, by simp, by simpa using hhi, fun k hk => by
            obtain rfl : k = 0 := by omega
            simp [hlo]⟩
        · rintro ⟨j, hj, rfl, hnone, hbefore⟩
          match j with
          | 0 => simp [hlo] at hnone
          | 1 => simp
          | j + 2 => simpa [hhi] using hbefore 1 (by omega)
      | some hi =>
        simp only [Memory.readDword, hlo, hhi]
        have hshift : ∀ j, a + 8 + 4 * j = a + 4 * (j + 2) := by omega
        have hih := ih (a + 8)
        simp only [hshift] at hih
        have hiff : (∃ j, j < 2 * (n + 1) ∧ e = .uninit (a + 4 * j) ∧ Memory.readWord m (a + 4 * j) = none ∧
            ∀ k, k < j → (Memory.readWord m (a + 4 * k)).isSome = true) ↔
            ∃ j, j < 2 * n ∧ e = .uninit (a + 4 * (j + 2)) ∧ Memory.readWord m (a + 4 * (j + 2)) = none ∧
              ∀ k, k < j → (Memory.readWord m (a + 4 * (k + 2))).isSome = true := by
          constructor
          · rintro ⟨j, hj, he, hnone, hbefore⟩
            match j with
            | 0 => simp [hlo] at hnone
            | 1 => simp [hhi] at hnone
            | j + 2 => exact ⟨j, by omega, he, hnone, fun k hk => hbefore (k + 2) (by omega)⟩
          · rintro ⟨j, hj, he, hnone, hbefore⟩
            refine ⟨j + 2, by omega, he, hnone, fun k hk => ?_⟩
            match k with
            | 0 => simp [hlo]
            | 1 => simp [hhi]
            | k + 2 => exact hbefore k (by omega)
        rw [hiff, ← hih]
        cases readDwords m (a + 8) n <;> simp

/-! ## One value for each stage -/

@[simp] theorem PerStage.get_set_same {α : Type} (f : PerStage α) (g : Stage) (x : α) : (f.set g x).get g = x := by
  cases g <;> rfl

theorem PerStage.get_set_other {α : Type} (f : PerStage α) {g h : Stage} (x : α) (hne : h ≠ g) :
    (f.set g x).get h = f.get h := by
  cases g <;> cases h <;> first | rfl | exact absurd rfl hne

@[simp] theorem PerStage.get_map {α β : Type} (k : α → β) (f : PerStage α) (g : Stage) :
    (f.map k).get g = k (f.get g) := by
  cases g <;> rfl

end Sys2Proof.Machine
end

