-- ==== Sys2Proof/Laws/Exec.lean ====
section
/-! SUPPORT. What holds of every command because it ends through `finish`. -/

namespace Sys2Proof.Machine

/-- Every command ends through `finish`, from the state it started in. -/
theorem exec_eq_finish (i : Instr) (s : State) : ∃ r, exec i s = finish s r := by
  cases i with
  | nop => exact ⟨_, by rw [exec, execNop]⟩
  | load rows cols => exact ⟨_, by rw [exec, execLoad]⟩
  | compute len islot oslot => exact ⟨_, by rw [exec, execCompute]⟩
  | act var oslot => exact ⟨_, by rw [exec, execAct]⟩
  | decomp => exact ⟨_, by rw [exec, execDecomp]⟩
  | reasm => exact ⟨_, by rw [exec, execReasm]⟩
  | run mode => exact ⟨_, by rw [exec, execRun]⟩

end Sys2Proof.Machine
end

