-- ==== Sys2Proof/Laws/PerInstr.lean ====
section
/-! SUPPORT. What holds of every command as syntax, one lemma for each constructor: its word carries its opcode of the
opcode map in bits 31:28 (30_encoding.md R91, R102). -/

namespace Sys2Proof

/-- The opcode map (R102). -/
def opcodeMap : Instr → BitVec 4
  | .nop => 0x0#4
  | .load _ _ => 0x1#4
  | .compute _ _ _ => 0x2#4
  | .act _ _ => 0x3#4
  | .decomp => 0x4#4
  | .reasm => 0x5#4
  | .run _ => 0x6#4

/-- The word of a command carries the command's opcode. -/
def Laws.Opcode.Statement (i : Instr) : Prop := opcOf (encode i) = opcodeMap i

/-- Fields below bit 28 leave the opcode as it is. -/
theorem opcOf_commandWord {opc fields : Nat} (h : fields < 2 ^ 28) :
    opcOf (commandWord opc fields) = BitVec.ofNat 4 opc := by
  rw [← BitVec.toNat_inj, opcOf_toNat, commandWord_toNat h, BitVec.toNat_ofNat]
  omega

theorem Laws.Opcode.nop : Laws.Opcode.Statement .nop := opcOf_commandWord (by decide)

theorem Laws.Opcode.load (rows cols : Nat) : Laws.Opcode.Statement (.load rows cols) :=
  opcOf_commandWord (by simp only [fieldAt]; omega)

theorem Laws.Opcode.compute (len islot oslot : Nat) : Laws.Opcode.Statement (.compute len islot oslot) :=
  opcOf_commandWord (by simp only [fieldAt]; omega)

theorem Laws.Opcode.act (var oslot : Nat) : Laws.Opcode.Statement (.act var oslot) :=
  opcOf_commandWord (by simp only [fieldAt]; omega)

theorem Laws.Opcode.decomp : Laws.Opcode.Statement .decomp := opcOf_commandWord (by decide)

theorem Laws.Opcode.reasm : Laws.Opcode.Statement .reasm := opcOf_commandWord (by decide)

theorem Laws.Opcode.run (mode : RunMode) : Laws.Opcode.Statement (.run mode) :=
  opcOf_commandWord (by simp only [fieldAt]; omega)

end Sys2Proof
end

