-- ==== Sys2Proof/Laws/State.lean ====
section
/-! SUPPORT. One lemma for each field of the state under each named update, so that no proof unfolds an update. -/

namespace Sys2Proof.Machine

/-! ## A successful completion (R237). -/

@[simp] theorem succeed_params (s : State) : (succeed s).params = s.params := rfl
@[simp] theorem succeed_busy (s : State) : (succeed s).busy = false := rfl
@[simp] theorem succeed_done (s : State) : (succeed s).done = true := rfl
@[simp] theorem succeed_err (s : State) : (succeed s).err = s.err := rfl
@[simp] theorem succeed_wvalid (s : State) : (succeed s).wvalid = s.wvalid := rfl
@[simp] theorem succeed_doneIe (s : State) : (succeed s).doneIe = s.doneIe := rfl
@[simp] theorem succeed_errIe (s : State) : (succeed s).errIe = s.errIe := rfl
@[simp] theorem succeed_errCode (s : State) : (succeed s).errCode = s.errCode := rfl
@[simp] theorem succeed_errOpc (s : State) : (succeed s).errOpc = s.errOpc := rfl
@[simp] theorem succeed_errIndex (s : State) : (succeed s).errIndex = s.errIndex := rfl
@[simp] theorem succeed_errValue (s : State) : (succeed s).errValue = s.errValue := rfl
@[simp] theorem succeed_errLimit (s : State) : (succeed s).errLimit = s.errLimit := rfl
@[simp] theorem succeed_codecIn (s : State) : (succeed s).codecIn = s.codecIn := rfl
@[simp] theorem succeed_codecNib (s : State) : (succeed s).codecNib = s.codecNib := rfl
@[simp] theorem succeed_codecOut (s : State) : (succeed s).codecOut = s.codecOut := rfl
@[simp] theorem succeed_evcount (s : State) : (succeed s).evcount = s.evcount := rfl
@[simp] theorem succeed_dur (s : State) : (succeed s).dur = s.dur := rfl
@[simp] theorem succeed_chunks (s : State) : (succeed s).chunks = s.chunks := rfl
@[simp] theorem succeed_images (s : State) : (succeed s).images = s.images := rfl
@[simp] theorem succeed_layers (s : State) : (succeed s).layers = s.layers := rfl
@[simp] theorem succeed_actv (s : State) : (succeed s).actv = s.actv := rfl
@[simp] theorem succeed_warr (s : State) : (succeed s).warr = s.warr := rfl
@[simp] theorem succeed_wnib (s : State) : (succeed s).wnib = s.wnib := rfl
@[simp] theorem succeed_acc (s : State) : (succeed s).acc = s.acc := rfl
@[simp] theorem succeed_mem (s : State) : (succeed s).mem = s.mem := rfl
@[simp] theorem succeed_free (s : State) : (succeed s).free = s.free := rfl
@[simp] theorem succeed_occ (s : State) : (succeed s).occ = s.occ := rfl
@[simp] theorem succeed_accept (s : State) : (succeed s).accept = s.accept := rfl
@[simp] theorem succeed_cmdLatch (s : State) : (succeed s).cmdLatch = s.cmdLatch := rfl
@[simp] theorem succeed_inputs (s : State) : (succeed s).inputs = s.inputs := rfl
@[simp] theorem succeed_held (s : State) : (succeed s).held = s.held := rfl
@[simp] theorem succeed_lastResponse (s : State) : (succeed s).lastResponse = s.lastResponse := rfl

/-! ## Error entry (R236). -/

@[simp] theorem failCommand_params (e : CmdError) (s : State) : (failCommand e s).params = s.params := rfl
@[simp] theorem failCommand_busy (e : CmdError) (s : State) : (failCommand e s).busy = false := rfl
@[simp] theorem failCommand_done (e : CmdError) (s : State) : (failCommand e s).done = true := rfl
@[simp] theorem failCommand_err (e : CmdError) (s : State) : (failCommand e s).err = true := rfl
@[simp] theorem failCommand_wvalid (e : CmdError) (s : State) : (failCommand e s).wvalid = s.wvalid := rfl
@[simp] theorem failCommand_doneIe (e : CmdError) (s : State) : (failCommand e s).doneIe = s.doneIe := rfl
@[simp] theorem failCommand_errIe (e : CmdError) (s : State) : (failCommand e s).errIe = s.errIe := rfl
@[simp] theorem failCommand_errCode (e : CmdError) (s : State) : (failCommand e s).errCode = e.code := rfl
@[simp] theorem failCommand_errOpc (e : CmdError) (s : State) : (failCommand e s).errOpc = s.cmdLatch.extractLsb' 28 4 := rfl
@[simp] theorem failCommand_errIndex (e : CmdError) (s : State) : (failCommand e s).errIndex = e.index := rfl
@[simp] theorem failCommand_errValue (e : CmdError) (s : State) : (failCommand e s).errValue = e.value := rfl
@[simp] theorem failCommand_errLimit (e : CmdError) (s : State) : (failCommand e s).errLimit = e.limit := rfl
@[simp] theorem failCommand_codecIn (e : CmdError) (s : State) : (failCommand e s).codecIn = s.codecIn := rfl
@[simp] theorem failCommand_codecNib (e : CmdError) (s : State) : (failCommand e s).codecNib = s.codecNib := rfl
@[simp] theorem failCommand_codecOut (e : CmdError) (s : State) : (failCommand e s).codecOut = s.codecOut := rfl
@[simp] theorem failCommand_evcount (e : CmdError) (s : State) : (failCommand e s).evcount = s.evcount := rfl
@[simp] theorem failCommand_dur (e : CmdError) (s : State) : (failCommand e s).dur = s.dur := rfl
@[simp] theorem failCommand_chunks (e : CmdError) (s : State) : (failCommand e s).chunks = s.chunks := rfl
@[simp] theorem failCommand_images (e : CmdError) (s : State) : (failCommand e s).images = s.images := rfl
@[simp] theorem failCommand_layers (e : CmdError) (s : State) : (failCommand e s).layers = s.layers := rfl
@[simp] theorem failCommand_actv (e : CmdError) (s : State) : (failCommand e s).actv = s.actv := rfl
@[simp] theorem failCommand_warr (e : CmdError) (s : State) : (failCommand e s).warr = s.warr := rfl
@[simp] theorem failCommand_wnib (e : CmdError) (s : State) : (failCommand e s).wnib = s.wnib := rfl
@[simp] theorem failCommand_acc (e : CmdError) (s : State) : (failCommand e s).acc = s.acc := rfl
@[simp] theorem failCommand_mem (e : CmdError) (s : State) : (failCommand e s).mem = s.mem := rfl
@[simp] theorem failCommand_free (e : CmdError) (s : State) : (failCommand e s).free = s.free := rfl
@[simp] theorem failCommand_occ (e : CmdError) (s : State) : (failCommand e s).occ = s.occ := rfl
@[simp] theorem failCommand_accept (e : CmdError) (s : State) : (failCommand e s).accept = s.accept := rfl
@[simp] theorem failCommand_cmdLatch (e : CmdError) (s : State) : (failCommand e s).cmdLatch = s.cmdLatch := rfl
@[simp] theorem failCommand_inputs (e : CmdError) (s : State) : (failCommand e s).inputs = s.inputs := rfl
@[simp] theorem failCommand_held (e : CmdError) (s : State) : (failCommand e s).held = s.held := rfl
@[simp] theorem failCommand_lastResponse (e : CmdError) (s : State) : (failCommand e s).lastResponse = s.lastResponse := rfl

/-! ## A write to STATUS (R29). -/

@[simp] theorem clearFlags_params (v : Word) (s : State) : (clearFlags v s).params = s.params := rfl
@[simp] theorem clearFlags_busy (v : Word) (s : State) : (clearFlags v s).busy = s.busy := rfl
@[simp] theorem clearFlags_done (v : Word) (s : State) : (clearFlags v s).done = (s.done && !v.getLsbD 1) := rfl
@[simp] theorem clearFlags_err (v : Word) (s : State) : (clearFlags v s).err = (s.err && !v.getLsbD 2) := rfl
@[simp] theorem clearFlags_wvalid (v : Word) (s : State) : (clearFlags v s).wvalid = s.wvalid := rfl
@[simp] theorem clearFlags_doneIe (v : Word) (s : State) : (clearFlags v s).doneIe = s.doneIe := rfl
@[simp] theorem clearFlags_errIe (v : Word) (s : State) : (clearFlags v s).errIe = s.errIe := rfl
@[simp] theorem clearFlags_errCode (v : Word) (s : State) : (clearFlags v s).errCode = s.errCode := rfl
@[simp] theorem clearFlags_errOpc (v : Word) (s : State) : (clearFlags v s).errOpc = s.errOpc := rfl
@[simp] theorem clearFlags_errIndex (v : Word) (s : State) : (clearFlags v s).errIndex = s.errIndex := rfl
@[simp] theorem clearFlags_errValue (v : Word) (s : State) : (clearFlags v s).errValue = s.errValue := rfl
@[simp] theorem clearFlags_errLimit (v : Word) (s : State) : (clearFlags v s).errLimit = s.errLimit := rfl
@[simp] theorem clearFlags_codecIn (v : Word) (s : State) : (clearFlags v s).codecIn = s.codecIn := rfl
@[simp] theorem clearFlags_codecNib (v : Word) (s : State) : (clearFlags v s).codecNib = s.codecNib := rfl
@[simp] theorem clearFlags_codecOut (v : Word) (s : State) : (clearFlags v s).codecOut = s.codecOut := rfl
@[simp] theorem clearFlags_evcount (v : Word) (s : State) : (clearFlags v s).evcount = s.evcount := rfl
@[simp] theorem clearFlags_dur (v : Word) (s : State) : (clearFlags v s).dur = s.dur := rfl
@[simp] theorem clearFlags_chunks (v : Word) (s : State) : (clearFlags v s).chunks = s.chunks := rfl
@[simp] theorem clearFlags_images (v : Word) (s : State) : (clearFlags v s).images = s.images := rfl
@[simp] theorem clearFlags_layers (v : Word) (s : State) : (clearFlags v s).layers = s.layers := rfl
@[simp] theorem clearFlags_actv (v : Word) (s : State) : (clearFlags v s).actv = s.actv := rfl
@[simp] theorem clearFlags_warr (v : Word) (s : State) : (clearFlags v s).warr = s.warr := rfl
@[simp] theorem clearFlags_wnib (v : Word) (s : State) : (clearFlags v s).wnib = s.wnib := rfl
@[simp] theorem clearFlags_acc (v : Word) (s : State) : (clearFlags v s).acc = s.acc := rfl
@[simp] theorem clearFlags_mem (v : Word) (s : State) : (clearFlags v s).mem = s.mem := rfl
@[simp] theorem clearFlags_free (v : Word) (s : State) : (clearFlags v s).free = s.free := rfl
@[simp] theorem clearFlags_occ (v : Word) (s : State) : (clearFlags v s).occ = s.occ := rfl
@[simp] theorem clearFlags_accept (v : Word) (s : State) : (clearFlags v s).accept = s.accept := rfl
@[simp] theorem clearFlags_cmdLatch (v : Word) (s : State) : (clearFlags v s).cmdLatch = s.cmdLatch := rfl
@[simp] theorem clearFlags_inputs (v : Word) (s : State) : (clearFlags v s).inputs = s.inputs := rfl
@[simp] theorem clearFlags_held (v : Word) (s : State) : (clearFlags v s).held = s.held := rfl
@[simp] theorem clearFlags_lastResponse (v : Word) (s : State) : (clearFlags v s).lastResponse = s.lastResponse := rfl

/-! ## Soft reset (R272). -/

@[simp] theorem softReset_params (s : State) : (softReset s).params = s.params := rfl
@[simp] theorem softReset_busy (s : State) : (softReset s).busy = false := rfl
@[simp] theorem softReset_done (s : State) : (softReset s).done = false := rfl
@[simp] theorem softReset_err (s : State) : (softReset s).err = false := rfl
@[simp] theorem softReset_wvalid (s : State) : (softReset s).wvalid = false := rfl
@[simp] theorem softReset_doneIe (s : State) : (softReset s).doneIe = false := rfl
@[simp] theorem softReset_errIe (s : State) : (softReset s).errIe = false := rfl
@[simp] theorem softReset_errCode (s : State) : (softReset s).errCode = .none := rfl
@[simp] theorem softReset_errOpc (s : State) : (softReset s).errOpc = 0#4 := rfl
@[simp] theorem softReset_errIndex (s : State) : (softReset s).errIndex = 0#32 := rfl
@[simp] theorem softReset_errValue (s : State) : (softReset s).errValue = 0#32 := rfl
@[simp] theorem softReset_errLimit (s : State) : (softReset s).errLimit = 0#32 := rfl
@[simp] theorem softReset_codecIn (s : State) : (softReset s).codecIn = 0#32 := rfl
@[simp] theorem softReset_codecNib (s : State) : (softReset s).codecNib = 0#32 := rfl
@[simp] theorem softReset_codecOut (s : State) : (softReset s).codecOut = 0#32 := rfl
@[simp] theorem softReset_evcount (s : State) : (softReset s).evcount = 0#32 := rfl
@[simp] theorem softReset_dur (s : State) : (softReset s).dur = .all 0#32 := rfl
@[simp] theorem softReset_chunks (s : State) : (softReset s).chunks = 0#32 := rfl
@[simp] theorem softReset_images (s : State) : (softReset s).images = 0#32 := rfl
@[simp] theorem softReset_layers (s : State) : (softReset s).layers = 0#32 := rfl
@[simp] theorem softReset_actv (s : State) : (softReset s).actv = 0#32 := rfl
@[simp] theorem softReset_warr (s : State) : (softReset s).warr = s.warr := rfl
@[simp] theorem softReset_wnib (s : State) : (softReset s).wnib = s.wnib := rfl
@[simp] theorem softReset_acc (s : State) : (softReset s).acc = s.acc := rfl
@[simp] theorem softReset_mem (s : State) : (softReset s).mem = s.mem := rfl
@[simp] theorem softReset_free (s : State) : (softReset s).free = s.free := rfl
@[simp] theorem softReset_occ (s : State) : (softReset s).occ = s.occ := rfl
@[simp] theorem softReset_accept (s : State) : (softReset s).accept = s.accept := rfl
@[simp] theorem softReset_cmdLatch (s : State) : (softReset s).cmdLatch = s.cmdLatch := rfl
@[simp] theorem softReset_inputs (s : State) : (softReset s).inputs = s.inputs := rfl
@[simp] theorem softReset_held (s : State) : (softReset s).held = s.held := rfl
@[simp] theorem softReset_lastResponse (s : State) : (softReset s).lastResponse = s.lastResponse := rfl

/-! ## A write to CMD (R28). -/

@[simp] theorem acceptCommand_params (v : Word) (s : State) : (acceptCommand v s).params = s.params := rfl
@[simp] theorem acceptCommand_busy (v : Word) (s : State) : (acceptCommand v s).busy = true := rfl
@[simp] theorem acceptCommand_done (v : Word) (s : State) : (acceptCommand v s).done = s.done := rfl
@[simp] theorem acceptCommand_err (v : Word) (s : State) : (acceptCommand v s).err = s.err := rfl
@[simp] theorem acceptCommand_wvalid (v : Word) (s : State) : (acceptCommand v s).wvalid = s.wvalid := rfl
@[simp] theorem acceptCommand_doneIe (v : Word) (s : State) : (acceptCommand v s).doneIe = s.doneIe := rfl
@[simp] theorem acceptCommand_errIe (v : Word) (s : State) : (acceptCommand v s).errIe = s.errIe := rfl
@[simp] theorem acceptCommand_errCode (v : Word) (s : State) : (acceptCommand v s).errCode = s.errCode := rfl
@[simp] theorem acceptCommand_errOpc (v : Word) (s : State) : (acceptCommand v s).errOpc = s.errOpc := rfl
@[simp] theorem acceptCommand_errIndex (v : Word) (s : State) : (acceptCommand v s).errIndex = s.errIndex := rfl
@[simp] theorem acceptCommand_errValue (v : Word) (s : State) : (acceptCommand v s).errValue = s.errValue := rfl
@[simp] theorem acceptCommand_errLimit (v : Word) (s : State) : (acceptCommand v s).errLimit = s.errLimit := rfl
@[simp] theorem acceptCommand_codecIn (v : Word) (s : State) : (acceptCommand v s).codecIn = s.codecIn := rfl
@[simp] theorem acceptCommand_codecNib (v : Word) (s : State) : (acceptCommand v s).codecNib = s.codecNib := rfl
@[simp] theorem acceptCommand_codecOut (v : Word) (s : State) : (acceptCommand v s).codecOut = s.codecOut := rfl
@[simp] theorem acceptCommand_evcount (v : Word) (s : State) : (acceptCommand v s).evcount = s.evcount := rfl
@[simp] theorem acceptCommand_dur (v : Word) (s : State) : (acceptCommand v s).dur = s.dur := rfl
@[simp] theorem acceptCommand_chunks (v : Word) (s : State) : (acceptCommand v s).chunks = s.chunks := rfl
@[simp] theorem acceptCommand_images (v : Word) (s : State) : (acceptCommand v s).images = s.images := rfl
@[simp] theorem acceptCommand_layers (v : Word) (s : State) : (acceptCommand v s).layers = s.layers := rfl
@[simp] theorem acceptCommand_actv (v : Word) (s : State) : (acceptCommand v s).actv = s.actv := rfl
@[simp] theorem acceptCommand_warr (v : Word) (s : State) : (acceptCommand v s).warr = s.warr := rfl
@[simp] theorem acceptCommand_wnib (v : Word) (s : State) : (acceptCommand v s).wnib = s.wnib := rfl
@[simp] theorem acceptCommand_acc (v : Word) (s : State) : (acceptCommand v s).acc = s.acc := rfl
@[simp] theorem acceptCommand_mem (v : Word) (s : State) : (acceptCommand v s).mem = s.mem := rfl
@[simp] theorem acceptCommand_free (v : Word) (s : State) : (acceptCommand v s).free = s.free := rfl
@[simp] theorem acceptCommand_occ (v : Word) (s : State) : (acceptCommand v s).occ = s.occ := rfl
@[simp] theorem acceptCommand_accept (v : Word) (s : State) : (acceptCommand v s).accept = s.accept := rfl
@[simp] theorem acceptCommand_cmdLatch (v : Word) (s : State) : (acceptCommand v s).cmdLatch = v := rfl
@[simp] theorem acceptCommand_inputs (v : Word) (s : State) : (acceptCommand v s).inputs = s.inputs := rfl
@[simp] theorem acceptCommand_held (v : Word) (s : State) : (acceptCommand v s).held = s.held := rfl
@[simp] theorem acceptCommand_lastResponse (v : Word) (s : State) : (acceptCommand v s).lastResponse = s.lastResponse := rfl

/-! ## The events still to come (R7). -/

@[simp] theorem takeInputs_params (l : List Input) (s : State) : (takeInputs l s).params = s.params := rfl
@[simp] theorem takeInputs_busy (l : List Input) (s : State) : (takeInputs l s).busy = s.busy := rfl
@[simp] theorem takeInputs_done (l : List Input) (s : State) : (takeInputs l s).done = s.done := rfl
@[simp] theorem takeInputs_err (l : List Input) (s : State) : (takeInputs l s).err = s.err := rfl
@[simp] theorem takeInputs_wvalid (l : List Input) (s : State) : (takeInputs l s).wvalid = s.wvalid := rfl
@[simp] theorem takeInputs_doneIe (l : List Input) (s : State) : (takeInputs l s).doneIe = s.doneIe := rfl
@[simp] theorem takeInputs_errIe (l : List Input) (s : State) : (takeInputs l s).errIe = s.errIe := rfl
@[simp] theorem takeInputs_errCode (l : List Input) (s : State) : (takeInputs l s).errCode = s.errCode := rfl
@[simp] theorem takeInputs_errOpc (l : List Input) (s : State) : (takeInputs l s).errOpc = s.errOpc := rfl
@[simp] theorem takeInputs_errIndex (l : List Input) (s : State) : (takeInputs l s).errIndex = s.errIndex := rfl
@[simp] theorem takeInputs_errValue (l : List Input) (s : State) : (takeInputs l s).errValue = s.errValue := rfl
@[simp] theorem takeInputs_errLimit (l : List Input) (s : State) : (takeInputs l s).errLimit = s.errLimit := rfl
@[simp] theorem takeInputs_codecIn (l : List Input) (s : State) : (takeInputs l s).codecIn = s.codecIn := rfl
@[simp] theorem takeInputs_codecNib (l : List Input) (s : State) : (takeInputs l s).codecNib = s.codecNib := rfl
@[simp] theorem takeInputs_codecOut (l : List Input) (s : State) : (takeInputs l s).codecOut = s.codecOut := rfl
@[simp] theorem takeInputs_evcount (l : List Input) (s : State) : (takeInputs l s).evcount = s.evcount := rfl
@[simp] theorem takeInputs_dur (l : List Input) (s : State) : (takeInputs l s).dur = s.dur := rfl
@[simp] theorem takeInputs_chunks (l : List Input) (s : State) : (takeInputs l s).chunks = s.chunks := rfl
@[simp] theorem takeInputs_images (l : List Input) (s : State) : (takeInputs l s).images = s.images := rfl
@[simp] theorem takeInputs_layers (l : List Input) (s : State) : (takeInputs l s).layers = s.layers := rfl
@[simp] theorem takeInputs_actv (l : List Input) (s : State) : (takeInputs l s).actv = s.actv := rfl
@[simp] theorem takeInputs_warr (l : List Input) (s : State) : (takeInputs l s).warr = s.warr := rfl
@[simp] theorem takeInputs_wnib (l : List Input) (s : State) : (takeInputs l s).wnib = s.wnib := rfl
@[simp] theorem takeInputs_acc (l : List Input) (s : State) : (takeInputs l s).acc = s.acc := rfl
@[simp] theorem takeInputs_mem (l : List Input) (s : State) : (takeInputs l s).mem = s.mem := rfl
@[simp] theorem takeInputs_free (l : List Input) (s : State) : (takeInputs l s).free = s.free := rfl
@[simp] theorem takeInputs_occ (l : List Input) (s : State) : (takeInputs l s).occ = s.occ := rfl
@[simp] theorem takeInputs_accept (l : List Input) (s : State) : (takeInputs l s).accept = s.accept := rfl
@[simp] theorem takeInputs_cmdLatch (l : List Input) (s : State) : (takeInputs l s).cmdLatch = s.cmdLatch := rfl
@[simp] theorem takeInputs_inputs (l : List Input) (s : State) : (takeInputs l s).inputs = l := rfl
@[simp] theorem takeInputs_held (l : List Input) (s : State) : (takeInputs l s).held = s.held := rfl
@[simp] theorem takeInputs_lastResponse (l : List Input) (s : State) : (takeInputs l s).lastResponse = s.lastResponse := rfl

/-! ## No access is held any more (R68). -/

@[simp] theorem releaseHeld_params (s : State) : (releaseHeld s).params = s.params := rfl
@[simp] theorem releaseHeld_busy (s : State) : (releaseHeld s).busy = s.busy := rfl
@[simp] theorem releaseHeld_done (s : State) : (releaseHeld s).done = s.done := rfl
@[simp] theorem releaseHeld_err (s : State) : (releaseHeld s).err = s.err := rfl
@[simp] theorem releaseHeld_wvalid (s : State) : (releaseHeld s).wvalid = s.wvalid := rfl
@[simp] theorem releaseHeld_doneIe (s : State) : (releaseHeld s).doneIe = s.doneIe := rfl
@[simp] theorem releaseHeld_errIe (s : State) : (releaseHeld s).errIe = s.errIe := rfl
@[simp] theorem releaseHeld_errCode (s : State) : (releaseHeld s).errCode = s.errCode := rfl
@[simp] theorem releaseHeld_errOpc (s : State) : (releaseHeld s).errOpc = s.errOpc := rfl
@[simp] theorem releaseHeld_errIndex (s : State) : (releaseHeld s).errIndex = s.errIndex := rfl
@[simp] theorem releaseHeld_errValue (s : State) : (releaseHeld s).errValue = s.errValue := rfl
@[simp] theorem releaseHeld_errLimit (s : State) : (releaseHeld s).errLimit = s.errLimit := rfl
@[simp] theorem releaseHeld_codecIn (s : State) : (releaseHeld s).codecIn = s.codecIn := rfl
@[simp] theorem releaseHeld_codecNib (s : State) : (releaseHeld s).codecNib = s.codecNib := rfl
@[simp] theorem releaseHeld_codecOut (s : State) : (releaseHeld s).codecOut = s.codecOut := rfl
@[simp] theorem releaseHeld_evcount (s : State) : (releaseHeld s).evcount = s.evcount := rfl
@[simp] theorem releaseHeld_dur (s : State) : (releaseHeld s).dur = s.dur := rfl
@[simp] theorem releaseHeld_chunks (s : State) : (releaseHeld s).chunks = s.chunks := rfl
@[simp] theorem releaseHeld_images (s : State) : (releaseHeld s).images = s.images := rfl
@[simp] theorem releaseHeld_layers (s : State) : (releaseHeld s).layers = s.layers := rfl
@[simp] theorem releaseHeld_actv (s : State) : (releaseHeld s).actv = s.actv := rfl
@[simp] theorem releaseHeld_warr (s : State) : (releaseHeld s).warr = s.warr := rfl
@[simp] theorem releaseHeld_wnib (s : State) : (releaseHeld s).wnib = s.wnib := rfl
@[simp] theorem releaseHeld_acc (s : State) : (releaseHeld s).acc = s.acc := rfl
@[simp] theorem releaseHeld_mem (s : State) : (releaseHeld s).mem = s.mem := rfl
@[simp] theorem releaseHeld_free (s : State) : (releaseHeld s).free = s.free := rfl
@[simp] theorem releaseHeld_occ (s : State) : (releaseHeld s).occ = s.occ := rfl
@[simp] theorem releaseHeld_accept (s : State) : (releaseHeld s).accept = s.accept := rfl
@[simp] theorem releaseHeld_cmdLatch (s : State) : (releaseHeld s).cmdLatch = s.cmdLatch := rfl
@[simp] theorem releaseHeld_inputs (s : State) : (releaseHeld s).inputs = s.inputs := rfl
@[simp] theorem releaseHeld_held (s : State) : (releaseHeld s).held = none := rfl
@[simp] theorem releaseHeld_lastResponse (s : State) : (releaseHeld s).lastResponse = s.lastResponse := rfl

/-! ## An answer on the bus (R60). -/

@[simp] theorem respond_params (r : Response) (s : State) : (respond r s).params = s.params := rfl
@[simp] theorem respond_busy (r : Response) (s : State) : (respond r s).busy = s.busy := rfl
@[simp] theorem respond_done (r : Response) (s : State) : (respond r s).done = s.done := rfl
@[simp] theorem respond_err (r : Response) (s : State) : (respond r s).err = s.err := rfl
@[simp] theorem respond_wvalid (r : Response) (s : State) : (respond r s).wvalid = s.wvalid := rfl
@[simp] theorem respond_doneIe (r : Response) (s : State) : (respond r s).doneIe = s.doneIe := rfl
@[simp] theorem respond_errIe (r : Response) (s : State) : (respond r s).errIe = s.errIe := rfl
@[simp] theorem respond_errCode (r : Response) (s : State) : (respond r s).errCode = s.errCode := rfl
@[simp] theorem respond_errOpc (r : Response) (s : State) : (respond r s).errOpc = s.errOpc := rfl
@[simp] theorem respond_errIndex (r : Response) (s : State) : (respond r s).errIndex = s.errIndex := rfl
@[simp] theorem respond_errValue (r : Response) (s : State) : (respond r s).errValue = s.errValue := rfl
@[simp] theorem respond_errLimit (r : Response) (s : State) : (respond r s).errLimit = s.errLimit := rfl
@[simp] theorem respond_codecIn (r : Response) (s : State) : (respond r s).codecIn = s.codecIn := rfl
@[simp] theorem respond_codecNib (r : Response) (s : State) : (respond r s).codecNib = s.codecNib := rfl
@[simp] theorem respond_codecOut (r : Response) (s : State) : (respond r s).codecOut = s.codecOut := rfl
@[simp] theorem respond_evcount (r : Response) (s : State) : (respond r s).evcount = s.evcount := rfl
@[simp] theorem respond_dur (r : Response) (s : State) : (respond r s).dur = s.dur := rfl
@[simp] theorem respond_chunks (r : Response) (s : State) : (respond r s).chunks = s.chunks := rfl
@[simp] theorem respond_images (r : Response) (s : State) : (respond r s).images = s.images := rfl
@[simp] theorem respond_layers (r : Response) (s : State) : (respond r s).layers = s.layers := rfl
@[simp] theorem respond_actv (r : Response) (s : State) : (respond r s).actv = s.actv := rfl
@[simp] theorem respond_warr (r : Response) (s : State) : (respond r s).warr = s.warr := rfl
@[simp] theorem respond_wnib (r : Response) (s : State) : (respond r s).wnib = s.wnib := rfl
@[simp] theorem respond_acc (r : Response) (s : State) : (respond r s).acc = s.acc := rfl
@[simp] theorem respond_mem (r : Response) (s : State) : (respond r s).mem = s.mem := rfl
@[simp] theorem respond_free (r : Response) (s : State) : (respond r s).free = s.free := rfl
@[simp] theorem respond_occ (r : Response) (s : State) : (respond r s).occ = s.occ := rfl
@[simp] theorem respond_accept (r : Response) (s : State) : (respond r s).accept = s.accept := rfl
@[simp] theorem respond_cmdLatch (r : Response) (s : State) : (respond r s).cmdLatch = s.cmdLatch := rfl
@[simp] theorem respond_inputs (r : Response) (s : State) : (respond r s).inputs = s.inputs := rfl
@[simp] theorem respond_held (r : Response) (s : State) : (respond r s).held = s.held := rfl
@[simp] theorem respond_lastResponse (r : Response) (s : State) : (respond r s).lastResponse = some r := rfl

/-! ## A held access (R68). -/

@[simp] theorem holdAccess_params (a : Access) (s : State) : (holdAccess a s).params = s.params := rfl
@[simp] theorem holdAccess_busy (a : Access) (s : State) : (holdAccess a s).busy = s.busy := rfl
@[simp] theorem holdAccess_done (a : Access) (s : State) : (holdAccess a s).done = s.done := rfl
@[simp] theorem holdAccess_err (a : Access) (s : State) : (holdAccess a s).err = s.err := rfl
@[simp] theorem holdAccess_wvalid (a : Access) (s : State) : (holdAccess a s).wvalid = s.wvalid := rfl
@[simp] theorem holdAccess_doneIe (a : Access) (s : State) : (holdAccess a s).doneIe = s.doneIe := rfl
@[simp] theorem holdAccess_errIe (a : Access) (s : State) : (holdAccess a s).errIe = s.errIe := rfl
@[simp] theorem holdAccess_errCode (a : Access) (s : State) : (holdAccess a s).errCode = s.errCode := rfl
@[simp] theorem holdAccess_errOpc (a : Access) (s : State) : (holdAccess a s).errOpc = s.errOpc := rfl
@[simp] theorem holdAccess_errIndex (a : Access) (s : State) : (holdAccess a s).errIndex = s.errIndex := rfl
@[simp] theorem holdAccess_errValue (a : Access) (s : State) : (holdAccess a s).errValue = s.errValue := rfl
@[simp] theorem holdAccess_errLimit (a : Access) (s : State) : (holdAccess a s).errLimit = s.errLimit := rfl
@[simp] theorem holdAccess_codecIn (a : Access) (s : State) : (holdAccess a s).codecIn = s.codecIn := rfl
@[simp] theorem holdAccess_codecNib (a : Access) (s : State) : (holdAccess a s).codecNib = s.codecNib := rfl
@[simp] theorem holdAccess_codecOut (a : Access) (s : State) : (holdAccess a s).codecOut = s.codecOut := rfl
@[simp] theorem holdAccess_evcount (a : Access) (s : State) : (holdAccess a s).evcount = s.evcount := rfl
@[simp] theorem holdAccess_dur (a : Access) (s : State) : (holdAccess a s).dur = s.dur := rfl
@[simp] theorem holdAccess_chunks (a : Access) (s : State) : (holdAccess a s).chunks = s.chunks := rfl
@[simp] theorem holdAccess_images (a : Access) (s : State) : (holdAccess a s).images = s.images := rfl
@[simp] theorem holdAccess_layers (a : Access) (s : State) : (holdAccess a s).layers = s.layers := rfl
@[simp] theorem holdAccess_actv (a : Access) (s : State) : (holdAccess a s).actv = s.actv := rfl
@[simp] theorem holdAccess_warr (a : Access) (s : State) : (holdAccess a s).warr = s.warr := rfl
@[simp] theorem holdAccess_wnib (a : Access) (s : State) : (holdAccess a s).wnib = s.wnib := rfl
@[simp] theorem holdAccess_acc (a : Access) (s : State) : (holdAccess a s).acc = s.acc := rfl
@[simp] theorem holdAccess_mem (a : Access) (s : State) : (holdAccess a s).mem = s.mem := rfl
@[simp] theorem holdAccess_free (a : Access) (s : State) : (holdAccess a s).free = s.free := rfl
@[simp] theorem holdAccess_occ (a : Access) (s : State) : (holdAccess a s).occ = s.occ := rfl
@[simp] theorem holdAccess_accept (a : Access) (s : State) : (holdAccess a s).accept = s.accept := rfl
@[simp] theorem holdAccess_cmdLatch (a : Access) (s : State) : (holdAccess a s).cmdLatch = s.cmdLatch := rfl
@[simp] theorem holdAccess_inputs (a : Access) (s : State) : (holdAccess a s).inputs = s.inputs := rfl
@[simp] theorem holdAccess_held (a : Access) (s : State) : (holdAccess a s).held = some a := rfl
@[simp] theorem holdAccess_lastResponse (a : Access) (s : State) : (holdAccess a s).lastResponse = some .held := rfl

/-! ## LOAD's writes (R144). -/

@[simp] theorem commitLoad_params (ws : List Operand) (s : State) : (commitLoad ws s).params = s.params := rfl
@[simp] theorem commitLoad_busy (ws : List Operand) (s : State) : (commitLoad ws s).busy = s.busy := rfl
@[simp] theorem commitLoad_done (ws : List Operand) (s : State) : (commitLoad ws s).done = s.done := rfl
@[simp] theorem commitLoad_err (ws : List Operand) (s : State) : (commitLoad ws s).err = s.err := rfl
@[simp] theorem commitLoad_wvalid (ws : List Operand) (s : State) : (commitLoad ws s).wvalid = true := rfl
@[simp] theorem commitLoad_doneIe (ws : List Operand) (s : State) : (commitLoad ws s).doneIe = s.doneIe := rfl
@[simp] theorem commitLoad_errIe (ws : List Operand) (s : State) : (commitLoad ws s).errIe = s.errIe := rfl
@[simp] theorem commitLoad_errCode (ws : List Operand) (s : State) : (commitLoad ws s).errCode = s.errCode := rfl
@[simp] theorem commitLoad_errOpc (ws : List Operand) (s : State) : (commitLoad ws s).errOpc = s.errOpc := rfl
@[simp] theorem commitLoad_errIndex (ws : List Operand) (s : State) : (commitLoad ws s).errIndex = s.errIndex := rfl
@[simp] theorem commitLoad_errValue (ws : List Operand) (s : State) : (commitLoad ws s).errValue = s.errValue := rfl
@[simp] theorem commitLoad_errLimit (ws : List Operand) (s : State) : (commitLoad ws s).errLimit = s.errLimit := rfl
@[simp] theorem commitLoad_codecIn (ws : List Operand) (s : State) : (commitLoad ws s).codecIn = s.codecIn := rfl
@[simp] theorem commitLoad_codecNib (ws : List Operand) (s : State) : (commitLoad ws s).codecNib = s.codecNib := rfl
@[simp] theorem commitLoad_codecOut (ws : List Operand) (s : State) : (commitLoad ws s).codecOut = s.codecOut := rfl
@[simp] theorem commitLoad_evcount (ws : List Operand) (s : State) : (commitLoad ws s).evcount = s.evcount := rfl
@[simp] theorem commitLoad_dur (ws : List Operand) (s : State) : (commitLoad ws s).dur = s.dur := rfl
@[simp] theorem commitLoad_chunks (ws : List Operand) (s : State) : (commitLoad ws s).chunks = s.chunks := rfl
@[simp] theorem commitLoad_images (ws : List Operand) (s : State) : (commitLoad ws s).images = s.images := rfl
@[simp] theorem commitLoad_layers (ws : List Operand) (s : State) : (commitLoad ws s).layers = s.layers := rfl
@[simp] theorem commitLoad_actv (ws : List Operand) (s : State) : (commitLoad ws s).actv = s.actv := rfl
@[simp] theorem commitLoad_warr (ws : List Operand) (s : State) : (commitLoad ws s).warr = ws := rfl
@[simp] theorem commitLoad_wnib (ws : List Operand) (s : State) : (commitLoad ws s).wnib = ws.map decompose := rfl
@[simp] theorem commitLoad_acc (ws : List Operand) (s : State) : (commitLoad ws s).acc = s.acc := rfl
@[simp] theorem commitLoad_mem (ws : List Operand) (s : State) : (commitLoad ws s).mem = s.mem := rfl
@[simp] theorem commitLoad_free (ws : List Operand) (s : State) : (commitLoad ws s).free = s.free := rfl
@[simp] theorem commitLoad_occ (ws : List Operand) (s : State) : (commitLoad ws s).occ = s.occ := rfl
@[simp] theorem commitLoad_accept (ws : List Operand) (s : State) : (commitLoad ws s).accept = s.accept := rfl
@[simp] theorem commitLoad_cmdLatch (ws : List Operand) (s : State) : (commitLoad ws s).cmdLatch = s.cmdLatch := rfl
@[simp] theorem commitLoad_inputs (ws : List Operand) (s : State) : (commitLoad ws s).inputs = s.inputs := rfl
@[simp] theorem commitLoad_held (ws : List Operand) (s : State) : (commitLoad ws s).held = s.held := rfl
@[simp] theorem commitLoad_lastResponse (ws : List Operand) (s : State) : (commitLoad ws s).lastResponse = s.lastResponse := rfl

/-! ## COMPUTE's writes (R147). -/

@[simp] theorem commitCompute_params (o : Nat) (xs : List Operand) (s : State) : (commitCompute o xs s).params = s.params := rfl
@[simp] theorem commitCompute_busy (o : Nat) (xs : List Operand) (s : State) : (commitCompute o xs s).busy = s.busy := rfl
@[simp] theorem commitCompute_done (o : Nat) (xs : List Operand) (s : State) : (commitCompute o xs s).done = s.done := rfl
@[simp] theorem commitCompute_err (o : Nat) (xs : List Operand) (s : State) : (commitCompute o xs s).err = s.err := rfl
@[simp] theorem commitCompute_wvalid (o : Nat) (xs : List Operand) (s : State) : (commitCompute o xs s).wvalid = s.wvalid := rfl
@[simp] theorem commitCompute_doneIe (o : Nat) (xs : List Operand) (s : State) : (commitCompute o xs s).doneIe = s.doneIe := rfl
@[simp] theorem commitCompute_errIe (o : Nat) (xs : List Operand) (s : State) : (commitCompute o xs s).errIe = s.errIe := rfl
@[simp] theorem commitCompute_errCode (o : Nat) (xs : List Operand) (s : State) : (commitCompute o xs s).errCode = s.errCode := rfl
@[simp] theorem commitCompute_errOpc (o : Nat) (xs : List Operand) (s : State) : (commitCompute o xs s).errOpc = s.errOpc := rfl
@[simp] theorem commitCompute_errIndex (o : Nat) (xs : List Operand) (s : State) : (commitCompute o xs s).errIndex = s.errIndex := rfl
@[simp] theorem commitCompute_errValue (o : Nat) (xs : List Operand) (s : State) : (commitCompute o xs s).errValue = s.errValue := rfl
@[simp] theorem commitCompute_errLimit (o : Nat) (xs : List Operand) (s : State) : (commitCompute o xs s).errLimit = s.errLimit := rfl
@[simp] theorem commitCompute_codecIn (o : Nat) (xs : List Operand) (s : State) : (commitCompute o xs s).codecIn = s.codecIn := rfl
@[simp] theorem commitCompute_codecNib (o : Nat) (xs : List Operand) (s : State) : (commitCompute o xs s).codecNib = s.codecNib := rfl
@[simp] theorem commitCompute_codecOut (o : Nat) (xs : List Operand) (s : State) : (commitCompute o xs s).codecOut = s.codecOut := rfl
@[simp] theorem commitCompute_evcount (o : Nat) (xs : List Operand) (s : State) : (commitCompute o xs s).evcount = s.evcount := rfl
@[simp] theorem commitCompute_dur (o : Nat) (xs : List Operand) (s : State) : (commitCompute o xs s).dur = s.dur := rfl
@[simp] theorem commitCompute_chunks (o : Nat) (xs : List Operand) (s : State) : (commitCompute o xs s).chunks = s.chunks := rfl
@[simp] theorem commitCompute_images (o : Nat) (xs : List Operand) (s : State) : (commitCompute o xs s).images = s.images := rfl
@[simp] theorem commitCompute_layers (o : Nat) (xs : List Operand) (s : State) : (commitCompute o xs s).layers = s.layers := rfl
@[simp] theorem commitCompute_actv (o : Nat) (xs : List Operand) (s : State) : (commitCompute o xs s).actv = s.actv := rfl
@[simp] theorem commitCompute_warr (o : Nat) (xs : List Operand) (s : State) : (commitCompute o xs s).warr = s.warr := rfl
@[simp] theorem commitCompute_wnib (o : Nat) (xs : List Operand) (s : State) : (commitCompute o xs s).wnib = s.wnib := rfl
@[simp] theorem commitCompute_acc (o : Nat) (xs : List Operand) (s : State) : (commitCompute o xs s).acc = mac s xs := rfl
@[simp] theorem commitCompute_mem (o : Nat) (xs : List Operand) (s : State) : (commitCompute o xs s).mem = Memory.writeDwords s.mem (obufAddr s.params o 0) (outputs (mac s xs)) := rfl
@[simp] theorem commitCompute_free (o : Nat) (xs : List Operand) (s : State) : (commitCompute o xs s).free = s.free := rfl
@[simp] theorem commitCompute_occ (o : Nat) (xs : List Operand) (s : State) : (commitCompute o xs s).occ = s.occ := rfl
@[simp] theorem commitCompute_accept (o : Nat) (xs : List Operand) (s : State) : (commitCompute o xs s).accept = s.accept := rfl
@[simp] theorem commitCompute_cmdLatch (o : Nat) (xs : List Operand) (s : State) : (commitCompute o xs s).cmdLatch = s.cmdLatch := rfl
@[simp] theorem commitCompute_inputs (o : Nat) (xs : List Operand) (s : State) : (commitCompute o xs s).inputs = s.inputs := rfl
@[simp] theorem commitCompute_held (o : Nat) (xs : List Operand) (s : State) : (commitCompute o xs s).held = s.held := rfl
@[simp] theorem commitCompute_lastResponse (o : Nat) (xs : List Operand) (s : State) : (commitCompute o xs s).lastResponse = s.lastResponse := rfl

/-! ## RUN's log and scheduler state (R182). -/

@[simp] theorem commitSchedule_params (s : State) : (commitSchedule s).params = s.params := rfl
@[simp] theorem commitSchedule_busy (s : State) : (commitSchedule s).busy = s.busy := rfl
@[simp] theorem commitSchedule_done (s : State) : (commitSchedule s).done = s.done := rfl
@[simp] theorem commitSchedule_err (s : State) : (commitSchedule s).err = s.err := rfl
@[simp] theorem commitSchedule_wvalid (s : State) : (commitSchedule s).wvalid = s.wvalid := rfl
@[simp] theorem commitSchedule_doneIe (s : State) : (commitSchedule s).doneIe = s.doneIe := rfl
@[simp] theorem commitSchedule_errIe (s : State) : (commitSchedule s).errIe = s.errIe := rfl
@[simp] theorem commitSchedule_errCode (s : State) : (commitSchedule s).errCode = s.errCode := rfl
@[simp] theorem commitSchedule_errOpc (s : State) : (commitSchedule s).errOpc = s.errOpc := rfl
@[simp] theorem commitSchedule_errIndex (s : State) : (commitSchedule s).errIndex = s.errIndex := rfl
@[simp] theorem commitSchedule_errValue (s : State) : (commitSchedule s).errValue = s.errValue := rfl
@[simp] theorem commitSchedule_errLimit (s : State) : (commitSchedule s).errLimit = s.errLimit := rfl
@[simp] theorem commitSchedule_codecIn (s : State) : (commitSchedule s).codecIn = s.codecIn := rfl
@[simp] theorem commitSchedule_codecNib (s : State) : (commitSchedule s).codecNib = s.codecNib := rfl
@[simp] theorem commitSchedule_codecOut (s : State) : (commitSchedule s).codecOut = s.codecOut := rfl
@[simp] theorem commitSchedule_evcount (s : State) : (commitSchedule s).evcount = ctx (runSchedule s).length := rfl
@[simp] theorem commitSchedule_dur (s : State) : (commitSchedule s).dur = s.dur := rfl
@[simp] theorem commitSchedule_chunks (s : State) : (commitSchedule s).chunks = s.chunks := rfl
@[simp] theorem commitSchedule_images (s : State) : (commitSchedule s).images = s.images := rfl
@[simp] theorem commitSchedule_layers (s : State) : (commitSchedule s).layers = s.layers := rfl
@[simp] theorem commitSchedule_actv (s : State) : (commitSchedule s).actv = s.actv := rfl
@[simp] theorem commitSchedule_warr (s : State) : (commitSchedule s).warr = s.warr := rfl
@[simp] theorem commitSchedule_wnib (s : State) : (commitSchedule s).wnib = s.wnib := rfl
@[simp] theorem commitSchedule_acc (s : State) : (commitSchedule s).acc = s.acc := rfl
@[simp] theorem commitSchedule_mem (s : State) : (commitSchedule s).mem = Memory.writeWords s.mem Config.evlogBase (logWords (runSchedule s)) := rfl
@[simp] theorem commitSchedule_free (s : State) : (commitSchedule s).free = (lastTimeline startTimeline (runSchedule s)).free.map (BitVec.ofNat 64) := rfl
@[simp] theorem commitSchedule_occ (s : State) : (commitSchedule s).occ = (lastTimeline startTimeline (runSchedule s)).occ := rfl
@[simp] theorem commitSchedule_accept (s : State) : (commitSchedule s).accept = BitVec.ofNat 64 (lastTimeline startTimeline (runSchedule s)).accept := rfl
@[simp] theorem commitSchedule_cmdLatch (s : State) : (commitSchedule s).cmdLatch = s.cmdLatch := rfl
@[simp] theorem commitSchedule_inputs (s : State) : (commitSchedule s).inputs = s.inputs := rfl
@[simp] theorem commitSchedule_held (s : State) : (commitSchedule s).held = s.held := rfl
@[simp] theorem commitSchedule_lastResponse (s : State) : (commitSchedule s).lastResponse = s.lastResponse := rfl

/-! ## RUN's data (R183). -/

@[simp] theorem commitData_params (xs : List Operand) (s : State) : (commitData xs s).params = s.params := rfl
@[simp] theorem commitData_busy (xs : List Operand) (s : State) : (commitData xs s).busy = s.busy := rfl
@[simp] theorem commitData_done (xs : List Operand) (s : State) : (commitData xs s).done = s.done := rfl
@[simp] theorem commitData_err (xs : List Operand) (s : State) : (commitData xs s).err = s.err := rfl
@[simp] theorem commitData_wvalid (xs : List Operand) (s : State) : (commitData xs s).wvalid = s.wvalid := rfl
@[simp] theorem commitData_doneIe (xs : List Operand) (s : State) : (commitData xs s).doneIe = s.doneIe := rfl
@[simp] theorem commitData_errIe (xs : List Operand) (s : State) : (commitData xs s).errIe = s.errIe := rfl
@[simp] theorem commitData_errCode (xs : List Operand) (s : State) : (commitData xs s).errCode = s.errCode := rfl
@[simp] theorem commitData_errOpc (xs : List Operand) (s : State) : (commitData xs s).errOpc = s.errOpc := rfl
@[simp] theorem commitData_errIndex (xs : List Operand) (s : State) : (commitData xs s).errIndex = s.errIndex := rfl
@[simp] theorem commitData_errValue (xs : List Operand) (s : State) : (commitData xs s).errValue = s.errValue := rfl
@[simp] theorem commitData_errLimit (xs : List Operand) (s : State) : (commitData xs s).errLimit = s.errLimit := rfl
@[simp] theorem commitData_codecIn (xs : List Operand) (s : State) : (commitData xs s).codecIn = s.codecIn := rfl
@[simp] theorem commitData_codecNib (xs : List Operand) (s : State) : (commitData xs s).codecNib = s.codecNib := rfl
@[simp] theorem commitData_codecOut (xs : List Operand) (s : State) : (commitData xs s).codecOut = s.codecOut := rfl
@[simp] theorem commitData_evcount (xs : List Operand) (s : State) : (commitData xs s).evcount = s.evcount := rfl
@[simp] theorem commitData_dur (xs : List Operand) (s : State) : (commitData xs s).dur = s.dur := rfl
@[simp] theorem commitData_chunks (xs : List Operand) (s : State) : (commitData xs s).chunks = s.chunks := rfl
@[simp] theorem commitData_images (xs : List Operand) (s : State) : (commitData xs s).images = s.images := rfl
@[simp] theorem commitData_layers (xs : List Operand) (s : State) : (commitData xs s).layers = s.layers := rfl
@[simp] theorem commitData_actv (xs : List Operand) (s : State) : (commitData xs s).actv = s.actv := rfl
@[simp] theorem commitData_warr (xs : List Operand) (s : State) : (commitData xs s).warr = s.warr := rfl
@[simp] theorem commitData_wnib (xs : List Operand) (s : State) : (commitData xs s).wnib = s.wnib := rfl
@[simp] theorem commitData_acc (xs : List Operand) (s : State) : (commitData xs s).acc = mac s (slotOperands s xs (runSlots s - 1)) := rfl
@[simp] theorem commitData_mem (xs : List Operand) (s : State) : (commitData xs s).mem = Memory.writeDwords s.mem Config.obufBase (runOutputs s xs) := rfl
@[simp] theorem commitData_free (xs : List Operand) (s : State) : (commitData xs s).free = s.free := rfl
@[simp] theorem commitData_occ (xs : List Operand) (s : State) : (commitData xs s).occ = s.occ := rfl
@[simp] theorem commitData_accept (xs : List Operand) (s : State) : (commitData xs s).accept = s.accept := rfl
@[simp] theorem commitData_cmdLatch (xs : List Operand) (s : State) : (commitData xs s).cmdLatch = s.cmdLatch := rfl
@[simp] theorem commitData_inputs (xs : List Operand) (s : State) : (commitData xs s).inputs = s.inputs := rfl
@[simp] theorem commitData_held (xs : List Operand) (s : State) : (commitData xs s).held = s.held := rfl
@[simp] theorem commitData_lastResponse (xs : List Operand) (s : State) : (commitData xs s).lastResponse = s.lastResponse := rfl

/-! ## Hardware reset (R270, R271). -/

@[simp] theorem State.resetOf_params (p : Params) : (State.resetOf p).params = p := rfl
@[simp] theorem State.resetOf_busy (p : Params) : (State.resetOf p).busy = false := rfl
@[simp] theorem State.resetOf_done (p : Params) : (State.resetOf p).done = false := rfl
@[simp] theorem State.resetOf_err (p : Params) : (State.resetOf p).err = false := rfl
@[simp] theorem State.resetOf_wvalid (p : Params) : (State.resetOf p).wvalid = false := rfl
@[simp] theorem State.resetOf_doneIe (p : Params) : (State.resetOf p).doneIe = false := rfl
@[simp] theorem State.resetOf_errIe (p : Params) : (State.resetOf p).errIe = false := rfl
@[simp] theorem State.resetOf_errCode (p : Params) : (State.resetOf p).errCode = .none := rfl
@[simp] theorem State.resetOf_errOpc (p : Params) : (State.resetOf p).errOpc = 0#4 := rfl
@[simp] theorem State.resetOf_errIndex (p : Params) : (State.resetOf p).errIndex = 0#32 := rfl
@[simp] theorem State.resetOf_errValue (p : Params) : (State.resetOf p).errValue = 0#32 := rfl
@[simp] theorem State.resetOf_errLimit (p : Params) : (State.resetOf p).errLimit = 0#32 := rfl
@[simp] theorem State.resetOf_codecIn (p : Params) : (State.resetOf p).codecIn = 0#32 := rfl
@[simp] theorem State.resetOf_codecNib (p : Params) : (State.resetOf p).codecNib = 0#32 := rfl
@[simp] theorem State.resetOf_codecOut (p : Params) : (State.resetOf p).codecOut = 0#32 := rfl
@[simp] theorem State.resetOf_evcount (p : Params) : (State.resetOf p).evcount = 0#32 := rfl
@[simp] theorem State.resetOf_dur (p : Params) : (State.resetOf p).dur = .all 0#32 := rfl
@[simp] theorem State.resetOf_chunks (p : Params) : (State.resetOf p).chunks = 0#32 := rfl
@[simp] theorem State.resetOf_images (p : Params) : (State.resetOf p).images = 0#32 := rfl
@[simp] theorem State.resetOf_layers (p : Params) : (State.resetOf p).layers = 0#32 := rfl
@[simp] theorem State.resetOf_actv (p : Params) : (State.resetOf p).actv = 0#32 := rfl
@[simp] theorem State.resetOf_warr (p : Params) : (State.resetOf p).warr = [] := rfl
@[simp] theorem State.resetOf_wnib (p : Params) : (State.resetOf p).wnib = [] := rfl
@[simp] theorem State.resetOf_acc (p : Params) : (State.resetOf p).acc = List.replicate p.cols 0#48 := rfl
@[simp] theorem State.resetOf_mem (p : Params) : (State.resetOf p).mem = [] := rfl
@[simp] theorem State.resetOf_free (p : Params) : (State.resetOf p).free = .all 0#64 := rfl
@[simp] theorem State.resetOf_occ (p : Params) : (State.resetOf p).occ = 0 := rfl
@[simp] theorem State.resetOf_accept (p : Params) : (State.resetOf p).accept = 0#64 := rfl
@[simp] theorem State.resetOf_cmdLatch (p : Params) : (State.resetOf p).cmdLatch = 0#32 := rfl
@[simp] theorem State.resetOf_inputs (p : Params) : (State.resetOf p).inputs = [] := rfl
@[simp] theorem State.resetOf_held (p : Params) : (State.resetOf p).held = none := rfl
@[simp] theorem State.resetOf_lastResponse (p : Params) : (State.resetOf p).lastResponse = none := rfl

@[simp] theorem hardwareReset_params (later : List Input) (s : State) : (hardwareReset later s).params = s.params := rfl
@[simp] theorem hardwareReset_busy (later : List Input) (s : State) : (hardwareReset later s).busy = false := rfl
@[simp] theorem hardwareReset_done (later : List Input) (s : State) : (hardwareReset later s).done = false := rfl
@[simp] theorem hardwareReset_err (later : List Input) (s : State) : (hardwareReset later s).err = false := rfl
@[simp] theorem hardwareReset_wvalid (later : List Input) (s : State) : (hardwareReset later s).wvalid = false := rfl
@[simp] theorem hardwareReset_doneIe (later : List Input) (s : State) : (hardwareReset later s).doneIe = false := rfl
@[simp] theorem hardwareReset_errIe (later : List Input) (s : State) : (hardwareReset later s).errIe = false := rfl
@[simp] theorem hardwareReset_errCode (later : List Input) (s : State) : (hardwareReset later s).errCode = .none := rfl
@[simp] theorem hardwareReset_errOpc (later : List Input) (s : State) : (hardwareReset later s).errOpc = 0#4 := rfl
@[simp] theorem hardwareReset_errIndex (later : List Input) (s : State) : (hardwareReset later s).errIndex = 0#32 := rfl
@[simp] theorem hardwareReset_errValue (later : List Input) (s : State) : (hardwareReset later s).errValue = 0#32 := rfl
@[simp] theorem hardwareReset_errLimit (later : List Input) (s : State) : (hardwareReset later s).errLimit = 0#32 := rfl
@[simp] theorem hardwareReset_codecIn (later : List Input) (s : State) : (hardwareReset later s).codecIn = 0#32 := rfl
@[simp] theorem hardwareReset_codecNib (later : List Input) (s : State) : (hardwareReset later s).codecNib = 0#32 := rfl
@[simp] theorem hardwareReset_codecOut (later : List Input) (s : State) : (hardwareReset later s).codecOut = 0#32 := rfl
@[simp] theorem hardwareReset_evcount (later : List Input) (s : State) : (hardwareReset later s).evcount = 0#32 := rfl
@[simp] theorem hardwareReset_dur (later : List Input) (s : State) : (hardwareReset later s).dur = .all 0#32 := rfl
@[simp] theorem hardwareReset_chunks (later : List Input) (s : State) : (hardwareReset later s).chunks = 0#32 := rfl
@[simp] theorem hardwareReset_images (later : List Input) (s : State) : (hardwareReset later s).images = 0#32 := rfl
@[simp] theorem hardwareReset_layers (later : List Input) (s : State) : (hardwareReset later s).layers = 0#32 := rfl
@[simp] theorem hardwareReset_actv (later : List Input) (s : State) : (hardwareReset later s).actv = 0#32 := rfl
@[simp] theorem hardwareReset_warr (later : List Input) (s : State) : (hardwareReset later s).warr = [] := rfl
@[simp] theorem hardwareReset_wnib (later : List Input) (s : State) : (hardwareReset later s).wnib = [] := rfl
@[simp] theorem hardwareReset_acc (later : List Input) (s : State) : (hardwareReset later s).acc = List.replicate s.params.cols 0#48 := rfl
@[simp] theorem hardwareReset_mem (later : List Input) (s : State) : (hardwareReset later s).mem = [] := rfl
@[simp] theorem hardwareReset_free (later : List Input) (s : State) : (hardwareReset later s).free = .all 0#64 := rfl
@[simp] theorem hardwareReset_occ (later : List Input) (s : State) : (hardwareReset later s).occ = 0 := rfl
@[simp] theorem hardwareReset_accept (later : List Input) (s : State) : (hardwareReset later s).accept = 0#64 := rfl
@[simp] theorem hardwareReset_cmdLatch (later : List Input) (s : State) : (hardwareReset later s).cmdLatch = 0#32 := rfl
@[simp] theorem hardwareReset_inputs (later : List Input) (s : State) : (hardwareReset later s).inputs = later := rfl
@[simp] theorem hardwareReset_held (later : List Input) (s : State) : (hardwareReset later s).held = none := rfl
@[simp] theorem hardwareReset_lastResponse (later : List Input) (s : State) : (hardwareReset later s).lastResponse = none := rfl

end Sys2Proof.Machine
end

