-- ==== Sys2Proof/Laws/Step.lean ====
section
/-! SUPPORT. What a step does, case by case, and what a host access does once its place is known: each definition is
unfolded here once. -/

namespace Sys2Proof.Machine

/-! ## The step -/

theorem step_nil {s : State} (h : s.inputs = []) : step s = deviceStep s := by rw [step, h]

theorem step_elapse {s : State} {rest : List Input} (h : s.inputs = .elapse :: rest) :
    step s = deviceStep (takeInputs rest s) := by rw [step, h]

theorem step_hardwareReset {s : State} {rest : List Input} (h : s.inputs = .hardwareReset :: rest) :
    step s = .next (hardwareReset rest s) := by rw [step, h]

theorem step_access {s : State} {a : Access} {rest : List Input} (h : s.inputs = .access a :: rest)
    (hh : s.held = none) : step s = offerAccess a (takeInputs rest s) := by rw [step, h]; simp only [hh]

theorem step_access_waiting {s : State} {a b : Access} {rest : List Input} (h : s.inputs = .access a :: rest)
    (hh : s.held = some b) : step s = deviceStep s := by rw [step, h]; simp only [hh]

theorem deviceStep_busy {s : State} (h : s.busy = true) : deviceStep s = runLatched s := by
  rw [deviceStep, if_pos h]

theorem deviceStep_held {s : State} {a : Access} (h : s.busy = false) (hh : s.held = some a) :
    deviceStep s = performAccess a (releaseHeld s) := by
  rw [deviceStep, if_neg (by rw [h]; decide), hh]

theorem deviceStep_idle {s : State} (h : s.busy = false) (hh : s.held = none) : deviceStep s = .next s := by
  rw [deviceStep, if_neg (by rw [h]; decide), hh]

theorem offerAccess_idle {s : State} (a : Access) (h : s.busy = false) : offerAccess a s = performAccess a s := by
  rw [offerAccess, h, Bool.false_and, if_neg Bool.false_ne_true]

theorem offerAccess_passes {s : State} {a : Access} (h : passesBusy a = true) :
    offerAccess a s = performAccess a s := by
  rw [offerAccess, h, Bool.not_true, Bool.and_false, if_neg Bool.false_ne_true]

theorem offerAccess_held {s : State} {a : Access} (h : s.busy = true) (hp : passesBusy a = false) :
    offerAccess a s = .next (holdAccess a s) := by
  rw [offerAccess, h, hp]; rfl

/-- With nothing running and nothing held, a step completes the access the host offers. -/
theorem step_offered {s : State} {a : Access} {rest : List Input} (hb : s.busy = false) (hh : s.held = none)
    (h : s.inputs = .access a :: rest) : step s = performAccess a (takeInputs rest s) := by
  rw [step_access h hh, offerAccess_idle]
  exact hb

theorem runLatched_decoded {s : State} {i : Instr} (h : decode s.cmdLatch = .ok i) : runLatched s = exec i s := by
  rw [runLatched, h]

theorem runLatched_rejected {s : State} {e : DecodeReject} (h : decode s.cmdLatch = .error e) :
    runLatched s = execIllegal s := by
  rw [runLatched, h]

/-! ## Accesses -/

theorem performAccess_busError {s : State} {a : Access} (h : placeOf s.params a = none) :
    performAccess a s = .fault (.busError a 0#32) := by
  rw [performAccess, h]

theorem performAccess_write {s : State} {a : Access} {pl : Place} (h : placeOf s.params a = some pl)
    (hd : a.dir = .write) : performAccess a s = .next (respond .written (writePlace a.wdata s pl)) := by
  rw [performAccess, h]; simp only [hd]

theorem performAccess_read {s : State} {a : Access} {pl : Place} {v : Word} (h : placeOf s.params a = some pl)
    (hd : a.dir = .read) (hv : readPlace s pl = some v) : performAccess a s = .next (respond (.data v) s) := by
  rw [performAccess, h]; simp only [hd, hv]

theorem performAccess_read_uninit {s : State} {a : Access} {pl : Place} (h : placeOf s.params a = some pl)
    (hd : a.dir = .read) (hv : readPlace s pl = none) :
    performAccess a s = .fault (.uninitRead a.addr.toNat) := by
  rw [performAccess, h]; simp only [hd, hv]

/-- An access that answers a next state is a read of a place with a value, or a write. -/
theorem performAccess_next {s t : State} {a : Access} (h : performAccess a s = .next t) :
    ∃ pl, placeOf s.params a = some pl ∧
      ((a.dir = .read ∧ ∃ v, readPlace s pl = some v ∧ t = respond (.data v) s) ∨
        (a.dir = .write ∧ t = respond .written (writePlace a.wdata s pl))) := by
  rw [performAccess] at h
  split at h
  · cases h
  · rename_i pl hpl
    refine ⟨pl, hpl, ?_⟩
    split at h
    · rename_i hd
      split at h
      · rename_i v hv
        exact .inl ⟨hd, v, hv, by simpa using h.symm⟩
      · cases h
    · rename_i hd
      exact .inr ⟨hd, by simpa using h.symm⟩

/-- An access of the whole, aligned word at an offset that holds a control register. -/
theorem placeOf_register (p : Params) {a : Access} {r : Reg} (hw : isWordAccess a = true)
    (hc : a.addr.toNat < 0x1000) (hr : registerAt a.addr.toNat = some r) : placeOf p a = some (.reg r) := by
  rw [placeOf, if_pos hw, placeAt, if_pos hc, hr]; rfl

/-- Every step is one of these: reset, the completion of the latched command, an access, a hold, or nothing. -/
theorem step_cases (s : State) :
    (∃ rest, s.inputs = .hardwareReset :: rest ∧ step s = .next (hardwareReset rest s)) ∨
      (∃ u, (u = s ∨ ∃ x rest, s.inputs = x :: rest ∧ u = takeInputs rest s) ∧
        ((s.busy = true ∧ step s = runLatched u) ∨
          (∃ a, (s.busy = false ∨ passesBusy a = true) ∧ (s.held = none ∨ s.held = some a) ∧
            step s = performAccess a (releaseHeld u)) ∨
          (∃ a, s.busy = true ∧ passesBusy a = false ∧ step s = .next (holdAccess a u)) ∨
          (s.busy = false ∧ step s = .next u))) := by
  have device : ∀ u : State, u.busy = s.busy → u.held = s.held → step s = deviceStep u →
      (s.busy = true ∧ step s = runLatched u) ∨
        (∃ a, (s.busy = false ∨ passesBusy a = true) ∧ (s.held = none ∨ s.held = some a) ∧
          step s = performAccess a (releaseHeld u)) ∨
        (∃ a, s.busy = true ∧ passesBusy a = false ∧ step s = .next (holdAccess a u)) ∨
        (s.busy = false ∧ step s = .next u) := by
    intro u hb hh hs
    cases hbusy : s.busy with
    | true => exact .inl ⟨rfl, by rw [hs, deviceStep_busy (hb.trans hbusy)]⟩
    | false =>
      cases hheld : s.held with
      | none => exact .inr (.inr (.inr ⟨rfl, by rw [hs, deviceStep_idle (hb.trans hbusy) (hh.trans hheld)]⟩))
      | some a =>
        exact .inr (.inl ⟨a, .inl rfl, .inr rfl, by rw [hs, deviceStep_held (hb.trans hbusy) (hh.trans hheld)]⟩)
  cases hin : s.inputs with
  | nil => exact .inr ⟨s, .inl rfl, device s rfl rfl (step_nil hin)⟩
  | cons x rest =>
    cases x with
    | hardwareReset => exact .inl ⟨rest, rfl, step_hardwareReset hin⟩
    | elapse =>
      exact .inr ⟨takeInputs rest s, .inr ⟨_, rest, rfl, rfl⟩, device _ rfl rfl (step_elapse hin)⟩
    | access a =>
      rcases Option.eq_none_or_eq_some s.held with hheld | ⟨b, hheld⟩
      · refine .inr ⟨takeInputs rest s, .inr ⟨_, rest, rfl, rfl⟩, ?_⟩
        have hs := step_access hin hheld
        have hu : releaseHeld (takeInputs rest s) = takeInputs rest s := by
          rw [releaseHeld, takeInputs, ← hheld]
        cases hp : passesBusy a with
        | true => exact .inr (.inl ⟨a, .inr hp, .inl hheld, by rw [hs, offerAccess_passes hp, hu]⟩)
        | false =>
          rcases Bool.eq_false_or_eq_true s.busy with hb | hb
          · exact .inr (.inr (.inl ⟨a, hb, hp, hs.trans (offerAccess_held hb hp)⟩))
          · exact .inr (.inl ⟨a, .inl hb, .inl hheld, by rw [hu]; exact hs.trans (offerAccess_idle a hb)⟩)
      · exact .inr ⟨s, .inl rfl, device s rfl rfl (step_access_waiting hin hheld)⟩

end Sys2Proof.Machine
end

