-- ==== Sys2Proof/Laws/Script.lean ====
section
/-! SUPPORT. What a turn of a script can do, said once, and that a `wait` ends exactly at a STATUS whose bit 0 is 0
(30_encoding.md R106). -/

namespace Sys2Proof.Machine

/-- A read of an offset at which a control register stands reaches it. -/
theorem placeOf_readAccess (p : Params) {off : BitVec 32} {r : Reg} (h4 : off.toNat % 4 = 0) (hlt : off.toNat < 0x1000)
    (hr : registerAt off.toNat = some r) : placeOf p (readAccess off) = some (.reg r) :=
  placeOf_register p (by simp [isWordAccess, readAccess, h4]) hlt hr

/-- A write of an offset at which a control register stands reaches it. -/
theorem placeOf_writeAccess (p : Params) {off : BitVec 32} {r : Reg} (w : Word) (h4 : off.toNat % 4 = 0)
    (hlt : off.toNat < 0x1000) (hr : registerAt off.toNat = some r) :
    placeOf p (writeAccess off w) = some (.reg r) :=
  placeOf_register p (by simp [isWordAccess, writeAccess, h4]) hlt hr

theorem passesBusy_statusWrite (v : Word) : passesBusy (writeAccess 0x014#32 v) = true := by
  have hword : isWordAccess (writeAccess 0x014#32 v) = true := by simp [isWordAccess, writeAccess]
  have hreg : registerAt (writeAccess 0x014#32 v).addr.toNat = some .status := by
    show registerAt (0x014#32).toNat = _
    decide
  rw [passesBusy, hword, hreg]
  rfl

theorem passesBusy_ieWrite (v : Word) : passesBusy (writeAccess 0x01C#32 v) = true := by
  have hword : isWordAccess (writeAccess 0x01C#32 v) = true := by simp [isWordAccess, writeAccess]
  have hreg : registerAt (writeAccess 0x01C#32 v).addr.toNat = some .ie := by
    show registerAt (0x01C#32).toNat = _
    decide
  rw [passesBusy, hword, hreg]
  rfl

/-- A turn that answers is one step of NMX: with time passing, which leaves the script, or with the next action's
access. -/
theorem scriptTurn_next {c : Bool} {r q : ScriptRun} (h : scriptTurn c r = .next q) :
    (step (takeInputs [.elapse] r.machine) = .next q.machine ∧ q.todo = r.todo) ∨
      ∃ x rest, c = false ∧ r.machine.held = none ∧ r.todo = x :: rest ∧
        step (takeInputs [.access x.offers] r.machine) = .next q.machine ∧
        q.todo = x.remains q.machine ++ rest := by
  have feed : ∀ {x : Input} {f : State → List HostAction}, r.feed x f = .next q →
      step (takeInputs [x] r.machine) = .next q.machine ∧ q.todo = f q.machine := by
    intro x f h
    rw [ScriptRun.feed] at h
    split at h
    · rename_i t ht
      cases h
      exact ⟨ht, rfl⟩
    · cases h
    · cases h
  rw [scriptTurn] at h
  split at h
  · exact .inl (feed h)
  · rename_i hc
    rw [Bool.not_eq_true, Bool.or_eq_false_iff] at hc
    split at h
    · rename_i hnil
      exact .inl ⟨(feed h).1, (feed h).2.trans hnil.symm⟩
    · rename_i x rest hcons
      exact .inr ⟨x, rest, hc.1, by simpa using hc.2, hcons, (feed h).1, (feed h).2⟩

theorem toldBusy_status (s : State) : toldBusy (respond (.data (statusWord s)) s) = s.busy := by
  show (statusWord s).getLsbD 0 = s.busy
  rw [statusWord, BitVec.getLsbD_append, if_pos (by decide)]
  cases s.busy <;> rfl

/-- A poll of a `wait` completes at once, and the `wait` goes on exactly while BUSY is 1. -/
theorem scriptTurn_poll {r : ScriptRun} {rest : List HostAction} (hh : r.machine.held = none)
    (ht : r.todo = .pollUntilIdle :: rest) :
    scriptTurn false r = .next
      { machine := respond (.data (statusWord r.machine)) (takeInputs [] r.machine)
        todo := (if r.machine.busy then [.pollUntilIdle] else []) ++ rest } := by
  have hplace : placeOf r.machine.params (readAccess 0x014#32) = some (.reg .status) :=
    placeOf_readAccess _ (by decide) (by decide) rfl
  have hs : step (takeInputs [.access (readAccess 0x014#32)] r.machine) =
      .next (respond (.data (statusWord r.machine)) (takeInputs [] r.machine)) := by
    rw [step_access (s := takeInputs _ r.machine) (rest := []) rfl hh, offerAccess_passes (by decide)]
    exact performAccess_read (s := takeInputs [] (takeInputs [.access (readAccess 0x014#32)] r.machine)) hplace rfl rfl
  have hb : toldBusy (respond (.data (statusWord r.machine)) (takeInputs [] r.machine)) = r.machine.busy :=
    toldBusy_status (takeInputs [] r.machine)
  rw [scriptTurn, hh, ht]
  simp only [Option.isSome_none, Bool.or_self, Bool.false_eq_true, if_false, ScriptRun.feed, HostAction.offers, hs,
    HostAction.remains, hb]

end Sys2Proof.Machine
end

