-- ==== Sys2Proof/Tests/Slice0.lean ====
section
/-! SUPPORT. Small tests. Expected values are those of 95_test_vectors.md and of the encodings of 30_encoding.md; each
test says which. Then, for every obligation with hypotheses, a state and operands that meet them. -/

namespace Sys2Proof.Tests

open Sys2Proof.Machine Sys2Proof.Claims

/-! ## Helpers -/

/-- One part of the state a command or a step answers. -/
def after {α : Type} (r : Result) (f : State → α) : Option α :=
  match r with
  | .next t => some (f t)
  | .fault _ => none
  | .refused _ => none

/-- The fault a command or a step answers. -/
def faultOf (r : Result) : Option Fault :=
  match r with
  | .next _ => none
  | .fault f => some f
  | .refused _ => none

theorem answers_next {r : Result} (h : (after r fun _ => ()).isSome = true) : ∃ t, r = .next t := by
  cases r with
  | next t => exact ⟨t, rfl⟩
  | fault _ => cases h
  | refused _ => cases h

/-- Code, index, value and limit of the last error. -/
def errorOf (t : State) : Word × Word × Word × Word := (errCodeWord t, t.errIndex, t.errValue, t.errLimit)

/-- The staged words of V2.3.1, V2.3.2 and V2.4.2, and those of the output slot 0. -/
def stagedMem : Memory :=
  ((Memory.writeWords [] 0x01000000 [0x1234#32, 0x0002#32, 0xFFFF#32, 0x0010#32]).writeWords 0x03000000
    [0x0001#32, 0x0003#32, 0x5678#32, 0xFFFF#32, 0xFFFF#32, 0xFFFF#32, 0xFFFF#32, 0x10000#32]).writeDwords 0x04000000
    [0#64, 0#64, 0x31231#64, 0x32#64, 7#64, -7#64, -9#64, -1000#64]

/-- The instance of 95_test_vectors.md with words staged and the latch at `w`. -/
def staged (w : Word) : State := { State.reset with mem := stagedMem, cmdLatch := w }

def weights : List Operand := [0x1234#16, 0x0002#16, 0xFFFF#16, 0x0010#16]

/-- The same with the array of V2.3.1 loaded. -/
def loaded (w : Word) : State :=
  { staged w with warr := weights, wnib := weights.map decompose, wvalid := true }

/-- The base configuration of 2.6 with other counts. -/
def configured (chunks images layers : Word) (s : State) : State :=
  { s with dur := ⟨2#32, 5#32, 1#32, 1#32, 4#32⟩, chunks := chunks, images := images, layers := layers, actv := 4#32 }

theorem loaded_coherent (w : Word) : (loaded w).ArrayCoherent := ⟨rfl, fun _ => rfl⟩

theorem configured_valid (s : State) : s.params = State.reset.params → ValidConfig (configured 2#32 1#32 2#32 s) := by
  intro hp
  have variants : ∀ l, l < 2 → (4#32).toNat / 4 ^ l % 4 ≤ 1 := by decide
  have durations : ∀ g, 0 ≤ ((⟨2#32, 5#32, 1#32, 1#32, 4#32⟩ : PerStage Word).get g).toInt := by intro g; cases g <;> decide
  have capacity : (1#32).toNat * ((2#32).toNat * (1 + 3 * (2#32).toNat) + 1) ≤ State.reset.params.evmax := by decide
  exact ⟨(by decide : 1 ≤ (2#32).toInt ∧ (2#32).toInt ≤ 8), variants, durations, (by decide : 0 < (2#32).toInt),
    (by decide : 0 < (1#32).toInt), hp ▸ capacity⟩

/-! ## WellFormed -/

theorem test_wellFormed_load_rows : (Instr.load 4096 0).wellFormed = false ∧ (Instr.load 4095 0).wellFormed = true := by decide

theorem test_wellFormed_load_cols : (Instr.load 0 4096).wellFormed = false ∧ (Instr.load 0 4095).wellFormed = true := by decide

theorem test_wellFormed_compute_len :
    (Instr.compute 4096 0 0).wellFormed = false ∧ (Instr.compute 4095 0 0).wellFormed = true := by decide

theorem test_wellFormed_compute_islot :
    (Instr.compute 0 256 0).wellFormed = false ∧ (Instr.compute 0 255 0).wellFormed = true := by decide

theorem test_wellFormed_compute_oslot :
    (Instr.compute 0 0 256).wellFormed = false ∧ (Instr.compute 0 0 255).wellFormed = true := by decide

theorem test_wellFormed_act_var : (Instr.act 4 0).wellFormed = false ∧ (Instr.act 3 0).wellFormed = true := by decide

theorem test_wellFormed_act_oslot : (Instr.act 0 256).wellFormed = false ∧ (Instr.act 0 255).wellFormed = true := by decide

theorem test_assemble_rejects_wide_slot : assemble (.act 1 256) = none := by decide

/-! ## Decode: words written out bit by bit from R92 -/

theorem test_decode_nop : decode 0b00000000000000000000000000000000#32 = .ok .nop := by decide

/-- Opcode 0001, 0000, ROWS 100000000001, COLS 010000000011. -/
theorem test_decode_load : decode 0b00010000100000000001010000000011#32 = .ok (.load 0x801 0x403) := by decide

/-- Opcode 0010, LEN 000000100000, ISLOT 10000001, OSLOT 01000010 (V. R92). -/
theorem test_decode_compute :
    decode 0b00100000001000001000000101000010#32 = .ok (.compute 0x020 0x81 0x42) := by decide

/-- Opcode 0011, eighteen zeros, VAR 01, OSLOT 10000010. -/
theorem test_decode_act : decode 0b00110000000000000000000110000010#32 = .ok (.act 1 0x82) := by decide

theorem test_decode_decomp : decode 0b01000000000000000000000000000000#32 = .ok .decomp := by decide

theorem test_decode_reasm : decode 0b01010000000000000000000000000000#32 = .ok .reasm := by decide

theorem test_decode_run_timing : decode 0b01100000000000000000000000000000#32 = .ok (.run .timing) := by decide

theorem test_decode_run_data : decode 0b01101000000000000000000000000000#32 = .ok (.run .data) := by decide

/-- The words of 2.7, V2.1.3, V2.3.4, V2.4.3 and 2.6 that encode no command. -/
theorem test_decode_rejects_reserved_bits :
    [0x00000001#32, 0x08000000#32, 0x11002002#32, 0x30000400#32, 0x40000001#32, 0x58000000#32, 0x60000001#32].map decode =
      List.replicate 7 (.error .reservedBit) := by decide

theorem test_decode_rejects_reserved_opcodes :
    [0x70000000#32, 0x80000000#32, 0xF1234567#32].map decode = List.replicate 3 (.error .reservedOpcode) := by decide

theorem test_decodeTableWord : decodeTableWord 32 0x2FFFFFFF = some (.compute 4095 255 255) := by decide

/-! ## One command on a small state -/

/-- R220's example. -/
theorem test_nop_status : after (exec .nop { State.reset with busy := true }) statusWord = some 0x2#32 := by decide

/-- V2.3.1. -/
theorem test_load_replaces_array :
    after (exec (.load 2 2) (staged 0x10002002#32)) (fun t => (t.warr, statusWord t)) = some (weights, 0xA#32) := by
  decide

/-- V2.3.4: rows first; then the lowest wide word. -/
theorem test_load_errors :
    after (exec (.load 3 3) (staged 0x10003003#32)) errorOf = some (0x102#32, 0#32, 3#32, 2#32) ∧
      after (exec (.load 2 2) { staged 0x10002002#32 with
        mem := stagedMem.writeWords 0x01000000 [1#32, 0x80000000#32, 1#32, 0x20000#32] }) errorOf =
        some (0x101#32, 1#32, 0x80000000#32, 0xFFFF#32) := by
  decide

/-- V2.3.2, the second row, from slot 1 to slot 2. -/
theorem test_compute_dot_product :
    after (exec (.compute 2 1 2) (loaded 0x20020102#32))
      (fun t => (Memory.readDword t.mem 0x04000020, Memory.readDword t.mem 0x04000028)) =
      some (some 0x106240061#64, some 0x10ACE0#64) := by
  decide

/-- V2.3.5: ISLOT first; and NOARRAY before everything. -/
theorem test_compute_errors :
    after (exec (.compute 2 5 5) (loaded 0x20020505#32)) errorOf = some (0x203#32, 0#32, 5#32, 3#32) ∧
      after (exec (.compute 7 9 9) (staged 0x20070909#32)) errorOf = some (0x204#32, 0#32, 0#32, 0#32) := by
  decide

/-- V2.4.2. -/
theorem test_act_leaky_in_place :
    after (exec (.act 1 3) (staged 0x30000103#32))
      (fun t => (Memory.readDword t.mem 0x04000030, Memory.readDword t.mem 0x04000038)) =
      some (some (-2#64), some (-125#64)) := by
  decide +kernel

/-- V2.4.3, the variant first. -/
theorem test_act_error_order :
    after (exec (.act 3 9) (staged 0x30000309#32)) errorOf = some (0x310#32, 0#32, 3#32, 1#32) := by decide

/-- V2.1.1. -/
theorem test_decomp_digits :
    after (exec .decomp { State.reset with codecIn := 0xBEEF#32 }) State.codecNib = some 0x0F0E0E0B#32 := by decide

theorem test_decomp_range :
    after (exec .decomp { staged 0x40000000#32 with codecIn := 0x10000#32 }) errorOf =
      some (0x401#32, 0#32, 0x10000#32, 0xFFFF#32) := by decide

/-- V2.1.2. -/
theorem test_reasm_value :
    after (exec .reasm { State.reset with codecNib := 0x0F0E0E0B#32 }) State.codecOut = some 0xBEEF#32 := by decide

theorem test_reasm_lowest_wide_byte :
    after (exec .reasm { staged 0x50000000#32 with codecNib := 0xFF00FF00#32 }) errorOf =
      some (0x501#32, 1#32, 0xFF#32, 15#32) := by decide

/-- V2.5.2 and V2.5.8: record 11 of a two-layer run. -/
theorem test_run_timing_record :
    after (exec (.run .timing) (configured 2#32 1#32 2#32 State.reset))
      (fun t => (t.evcount, (List.range 8).map fun k => Memory.readWord t.mem (evlogAddr 11 k))) =
      some (15#32, [some 0x11#32, some 0#32, some 1#32, some 0#32, some 0x15#32, some 0#32, some 0x1A#32, some 0#32]) := by
  decide +kernel

/-- 2.6: the last row but one. -/
theorem test_run_data_range :
    after (exec (.run .data) { configured 2#32 1#32 1#32 (loaded 0x68000000#32) with
      mem := stagedMem.writeWords 0x03000008 [0x10000#32] }) errorOf =
      some (0x601#32, 2#32, 0x10000#32, 0xFFFF#32) := by
  decide

/-- V2.5.5: with one slot the third fetch starts at 6. -/
theorem test_schedule_buffer_delays_fetch :
    ((schedule ⟨1, 5, 1, 1, 1⟩ 1 3 1).map fun e => (e.event.start, e.event.stop)) =
      [(0, 1), (1, 6), (6, 7), (7, 8), (1, 2), (6, 11), (11, 12), (12, 13), (6, 7), (11, 16), (16, 17), (17, 18), (18, 19)] := by
  decide

/-- V2.5.7: the third detection waits for its stage. -/
theorem test_schedule_detect_bound :
    ((schedule ⟨1, 1, 1, 1, 10⟩ 3 1 1).filter fun e => decide (e.event.job.stage = .detect)).map
      (fun e => (e.event.start, e.event.stop)) = [(4, 14), (14, 24), (24, 34)] := by
  decide

/-- V2.2.1. -/
theorem test_product : product (decompose 0x5678#16) (decompose 0x1234#16) = 0x06260060 := by decide

/-! ## One host access -/

/-- What a step with this one access answers. -/
def offer (a : Access) (s : State) : Result := step { s with inputs := [.access a] }

/-- 2.8. -/
theorem test_bus_errors :
    [0x064#32, 0xFFC#32, 0x01000010#32, 0x04000040#32, 0x05000800#32, 0x06000000#32, 0x002#32].all (fun off =>
      decide (faultOf (offer (readAccess off) State.reset) = some (.busError (readAccess off) 0#32))) = true := by
  decide

theorem test_read_constants :
    [0x000#32, 0x004#32, 0x008#32, 0x00C#32, 0x010#32, 0x018#32].map
      (fun off => after (offer (readAccess off) State.reset) State.lastResponse) =
      [0x4E4D5801#32, 0x00020002#32, 0x10300004#32, 0x00000040#32, 0#32, 0#32].map
        (fun v => some (some (Response.data v))) := by
  decide

/-- R62: the bytes of a word, the least significant first, and the next step reads the word back. -/
theorem test_host_word_write :
    after (offer (writeAccess 0x0400003C#32 0x12345678#32) State.reset)
      (fun t => (t.mem, Memory.readWord t.mem 0x0400003C)) =
      some ([(0x0400003C, 0x78#8), (0x0400003D, 0x56#8), (0x0400003E, 0x34#8), (0x0400003F, 0x12#8)],
        some 0x12345678#32) := by
  decide

/-- V2.9.1. -/
theorem test_unwritten_array_read :
    faultOf (offer (readAccess 0x02000000#32) State.reset) = some (.uninitRead 0x02000000) := by decide

/-- 2.7: an illegal word. -/
theorem test_illegal_word :
    after (step (State.reset.withFetchWord 32 0xF1234567)) (fun t => (statusWord t, errorOf t)) =
      some (0x6#32, 0xF20#32, 0#32, 0xF1234567#32, 0#32) := by decide

/-! ## Scripts (R104 to R106) -/

theorem test_script_command :
    (readLine "cmd act leaky, 3 ; in place".toList).bind Line.expand =
      some [.access (writeAccess 0x010#32 0x30000103#32)] := by decide

/-- How many actions a script has left, and whether NMX runs a command and holds an access. -/
def scriptEnd (r : Host.Outcome ScriptRun Fault Refusal) : Option (Nat × Bool × Bool) :=
  match r with
  | .next q => some (q.todo.length, q.machine.busy, q.machine.held.isSome)
  | .fault _ => none
  | .refused _ => none

/-- R106: `wait` after two commands, the second of them held at first. Each poll reads BUSY = 1 until both are done, so
the script ends only then, whenever time passes. -/
theorem test_script_wait_outlasts_held_command :
    [[false, false, true, true, false, false, true, false], [false, false, false, false, false, true, false, true],
      [false, false, true, false, false, false, false, false]].map (fun choices =>
        scriptEnd (runScript choices
          { machine := State.reset, todo := (expandScript [.cmd .nop, .cmd .decomp, .wait]).getD [] })) = [some (0, false, false), some (0, false, false), some (1, true, false)] := by decide +kernel

theorem test_script_rejects_wide_operand : readLine "cmd load 4096, 2".toList = none := by decide

/-! ## The hypotheses of every obligation are met -/

theorem witness_DecodeOfEncode :
    [Instr.nop, .load 4095 4095, .compute 4095 255 255, .act 3 255, .decomp, .reasm, .run .timing, .run .data].all
      Instr.wellFormed = true := by decide

theorem witness_EncodeOfDecode : decode 0x2FFFFFFF#32 = .ok (.compute 4095 255 255) := by decide

theorem witness_StepRunsLatchedCommand :
    ({ loaded 0x20020001#32 with busy := true } : State).busy = true ∧
      decode (loaded 0x20020001#32).cmdLatch = .ok (.compute 2 0 1) ∧ 0xFFFFFFFF < 2 ^ 32 ∧
      decode (BitVec.ofNat 32 0x68000000) = .ok (.run .data) := by decide

/-- Every clause of `IllegalWord` at a boundary. -/
theorem witness_IllegalWordFailsWithItself :
    [0x70000000#32, 0xFFFFFFFF#32, 0x00000001#32, 0x08000000#32, 0x40000001#32, 0x5FFFFFFF#32, 0x11000000#32,
        0x30000400#32, 0x60000001#32].all (fun w => decide (IllegalWord w)) = true ∧
      [0x10FFFFFF#32, 0x2FFFFFFF#32, 0x300003FF#32, 0x68000000#32].all (fun w => decide (¬ IllegalWord w)) = true ∧
      Offers { State.reset with inputs := [.access (writeAccess 0x010#32 0x70000000#32), .elapse] }
        (writeAccess 0x010#32 0x70000000#32) [.elapse] := by
  exact ⟨by decide, by decide, rfl, rfl, rfl⟩

/-- DecompWritesDigits and DecompRejectsWideValue, at the two values where they meet. -/
theorem witness_Decomp :
    (0xFFFF#32).toNat < 65536 ∧ 65536 ≤ (0x10000#32).toNat ∧
      ({ State.reset with codecIn := 0xFFFF#32 } : State).codecIn = 0xFFFF#32 := by decide

theorem witness_ReasmWritesWeightedSum :
    ({ State.reset with codecNib := 0x0F0F0F0F#32 } : State).codecNib =
      BitVec.ofNat 32 (15 + 15 * 2 ^ 8 + 15 * 2 ^ 16 + 15 * 2 ^ 24) := by decide

theorem witness_ReasmRejectsLowestWideDigit :
    ∀ i, i < 4 → 15 < (0x10000000#32 >>> (8 * (3 - i))).toNat / 256 ^ i % 256 ∧
      ∀ j, j < i → (0x10000000#32 >>> (8 * (3 - i))).toNat / 256 ^ j % 256 ≤ 15 := by decide

/-- MacIsExactWithoutOverflow, and with `witness_input_slots` ComputeWritesDotProducts: the last column, a full input. -/
theorem witness_array :
    (loaded 0#32).params.legal ∧ (loaded 0#32).ArrayCoherent ∧ (loaded 0#32).wvalid = true ∧
      [0xFFFF#16, 0xFFFF#16].length ≤ (loaded 0#32).params.rows ∧ 1 < (loaded 0#32).params.cols :=
  ⟨by decide, loaded_coherent _, by decide, by decide, by decide⟩

theorem witness_LoadReplacesArray :
    weights.length = (staged 0#32).params.rows * (staged 0#32).params.cols ∧
      ∀ i (h : i < weights.length), HoldsOperand (staged 0#32).mem (0x01000000 + 4 * i) weights[i] := by
  unfold HoldsOperand
  decide

theorem witness_LoadRejectsOtherShape :
    3 ≠ (staged 0#32).params.rows ∧ 2 = (staged 0#32).params.rows ∧ 3 ≠ (staged 0#32).params.cols := by decide

/-- A staging buffer whose first word is the first to be wide, and one whose last word is. -/
theorem witness_LoadRejectsLowestWideWeight :
    ((0 < 2 * 2 ∧ Memory.readWord (stagedMem.writeWords 0x01000000 [0x10000#32]) 0x01000000 = some 0x10000#32) ∧
      (3 < 2 * 2 ∧ Memory.readWord (stagedMem.writeWords 0x0100000C [0xFFFFFFFF#32]) 0x0100000C = some 0xFFFFFFFF#32)) ∧
      ∀ j, j < 3 → IsOperand (stagedMem.writeWords 0x0100000C [0xFFFFFFFF#32]) (0x01000000 + 4 * j) := by
  refine ⟨by decide, fun j hj => ?_⟩
  have h : ∀ j, j < 3 → ∃ i : Fin 4, Memory.readWord (stagedMem.writeWords 0x0100000C [0xFFFFFFFF#32])
      (0x01000000 + 4 * j) = some ((weights.getD i 0#16).setWidth 32) := by decide
  obtain ⟨i, hi⟩ := h j hj
  exact ⟨_, hi, by rw [BitVec.toNat_setWidth]; have := (weights.getD i 0#16).isLt; omega⟩

/-- One LOAD commits, one changes nothing. -/
theorem witness_LoadIsAllOrNothing :
    (∃ t, exec (.load 2 2) (staged 0x10002002#32) = .next t) ∧ ∃ t, exec (.load 2 3) (staged 0x10002003#32) = .next t :=
  ⟨answers_next (by decide), answers_next (by decide)⟩

/-- ComputeWritesDotProducts: three input slots of V2.3.2. -/
theorem witness_input_slots :
    HoldsInput (loaded 0#32) 0 [0x0001#16, 0x0003#16] ∧ HoldsInput (loaded 0#32) 1 [0x5678#16, 0xFFFF#16] ∧
      HoldsInput (loaded 0#32) 2 [0xFFFF#16, 0xFFFF#16] := by
  unfold HoldsInput HoldsOperand
  decide

theorem witness_ComputeErrorOrder :
    (staged 0#32).wvalid = false ∧ (loaded 0#32).wvalid = true ∧ 3 ≠ (loaded 0#32).params.rows ∧
      2 = (loaded 0#32).params.rows ∧ (loaded 0#32).params.nslot ≤ 4 ∧ 3 < (loaded 0#32).params.nslot := by decide

/-- The last word of slot 3 is wide. -/
theorem witness_ComputeRejectsLowestWideInput :
    3 < (loaded 0#32).params.nslot ∧ 1 < (loaded 0#32).params.rows ∧
      Memory.readWord (loaded 0#32).mem (0x03000000 + 4 * (3 * 2 + 1)) = some 0x10000#32 ∧
      ∀ k, k < 1 → IsOperand (loaded 0#32).mem (0x03000000 + 4 * (3 * 2 + k)) := by
  refine ⟨by decide, by decide, by decide, fun k hk => ?_⟩
  obtain rfl : k = 0 := by omega
  exact ⟨0xFFFF#32, by decide, by decide⟩

/-- Slot 3 holds negative values, slot 1 positive ones. -/
theorem witness_ActTransformsSlot :
    3 < (staged 0#32).params.nslot ∧ [-9#64, -1000#64].length = (staged 0#32).params.cols ∧
      (∀ c (h : c < [-9#64, -1000#64].length),
        Memory.readDword (staged 0#32).mem (obufAddr (staged 0#32).params 3 c) = some ([-9#64, -1000#64])[c]) ∧
      ∀ c (h : c < [0x31231#64, 0x32#64].length),
        Memory.readDword (staged 0#32).mem (obufAddr (staged 0#32).params 1 c) = some ([0x31231#64, 0x32#64])[c] := by
  decide

theorem witness_ActErrorOrder : 2 ≤ 2 ∧ 1 ≤ 1 ∧ (staged 0#32).params.nslot ≤ 4 := by decide

theorem witness_RunTimingWritesLog :
    (configured 2#32 1#32 2#32 State.reset).params.legal ∧ ValidConfig (configured 2#32 1#32 2#32 State.reset) :=
  ⟨by decide, configured_valid _ rfl⟩

/-- Three slots are used: one image, three chunks, one layer. -/
theorem witness_RunDataWritesOutputs :
    ValidConfig (configured 3#32 1#32 1#32 (loaded 0#32)) ∧
      (configured 3#32 1#32 1#32 (loaded 0#32)).ArrayCoherent ∧
      [[0x0001#16, 0x0003#16], [0x5678#16, 0xFFFF#16], [0xFFFF#16, 0xFFFF#16]].length =
        (1#32).toNat * (3#32).toNat * (1#32).toNat ∧
      ∀ q (h : q < 3), HoldsInput (configured 3#32 1#32 1#32 (loaded 0#32)) q
        ([[0x0001#16, 0x0003#16], [0x5678#16, 0xFFFF#16], [0xFFFF#16, 0xFFFF#16]])[q] := by
  refine ⟨⟨by decide, by show ∀ l, l < 1 → _; decide, by intro g; cases g <;> decide, by decide, by decide, by decide⟩,
    ⟨rfl, fun _ => rfl⟩, by decide, ?_⟩
  unfold HoldsInput HoldsOperand
  decide

/-- Every clause at a boundary: layers 0 and 9, a variant of layer 1, DUR2, CHUNKS, IMAGES, 71 events. -/
theorem witness_RunConfigErrorOrder :
    ((0#32).toInt < 1 ∧ 8 < (9#32).toInt ∧ (0xFFFFFFFF#32).toInt < 1) ∧
      ((∀ k, k < 1 → (8#32).toNat / 4 ^ k % 4 ≤ 1) ∧ 1 < (8#32).toNat / 4 ^ 1 % 4) ∧
      (∀ l, l < 2 → (0x34#32).toNat / 4 ^ l % 4 ≤ 1) ∧
      ((0x80000000#32).toInt < 0 ∧ 0 ≤ (0x7FFFFFFF#32).toInt ∧ 0 ≤ (0#32).toInt) ∧
      ((0#32).toInt ≤ 0 ∧ (0xFFFFFFFF#32).toInt ≤ 0 ∧ 0 < (1#32).toInt) ∧
      (State.reset.params.evmax < (1#32).toNat * ((10#32).toNat * (1 + 3 * (2#32).toNat) + 1)) ∧
      (∀ g, 0 ≤ (((configured 10#32 1#32 2#32 State.reset).dur.get g).toInt)) ∧
      ∀ h, stageNumber h < stageNumber .activate →
        0 ≤ (((⟨2#32, 5#32, 0xFFFFFFFF#32, 1#32, 4#32⟩ : PerStage Word).get h).toInt) := by
  refine ⟨by decide, by decide, by decide, by decide, by decide, by decide, by intro g; cases g <;> decide, ?_⟩
  intro h
  cases h <;> decide

/-- No array; six slots of four; four slots, of which the eighth word is wide. -/
theorem witness_RunDataErrorOrder :
    ValidConfig (configured 3#32 1#32 2#32 (loaded 0#32)) ∧ ValidConfig (configured 2#32 1#32 2#32 (loaded 0#32)) ∧
      ValidConfig (configured 2#32 1#32 2#32 (staged 0#32)) ∧
      (loaded 0#32).params.nslot < (1#32).toNat * (3#32).toNat * (2#32).toNat ∧
      (1#32).toNat * (2#32).toNat * (2#32).toNat ≤ (loaded 0#32).params.nslot ∧
      Memory.readWord (loaded 0#32).mem (0x03000000 + 4 * 7) = some 0x10000#32 ∧
      ∀ k, k < 7 → IsOperand (loaded 0#32).mem (0x03000000 + 4 * k) := by
  refine ⟨⟨by decide, by show ∀ l, l < 2 → _; decide, by intro g; cases g <;> decide, by decide, by decide, by decide⟩,
    configured_valid _ rfl, configured_valid _ rfl, by decide, by decide, by decide, fun k hk => ?_⟩
  have h : ∀ k, k < 7 → (Memory.readWord (loaded 0#32).mem (0x03000000 + 4 * k)).any
      (fun w => decide (w.toNat < 65536)) = true := by decide
  cases hw : Memory.readWord (loaded 0#32).mem (0x03000000 + 4 * k) with
  | none => exact absurd (h k hk) (by rw [hw]; decide)
  | some w =>
    have hlt := h k hk
    rw [hw] at hlt
    exact ⟨w, hw, of_decide_eq_true hlt⟩

/-- The log of V2.5.1. -/
def exampleLog : List Event := (schedule ⟨2, 5, 1, 1, 4⟩ 1 2 1).map Emission.event

/-- EveryEventFollowsTimingRule, OccupationsNeverOverlap, BufferNeverExceedsOneSlot, FetchStartsAtAcceptance: chunk 1's
fetch and compute as the event of the timing rule, as a pair on one stage, and after chunk 0's acceptance. -/
theorem witness_schedule :
    (∃ before e after, exampleLog = before ++ e :: after ∧ e.job.stage = .fetch ∧ before.length = 4) ∧
      (∃ ei ej, exampleLog[1]? = some ei ∧ exampleLog[5]? = some ej ∧ ei.job.stage = ej.job.stage) ∧
      (∃ ei ej, exampleLog[4]? = some ei ∧ exampleLog[5]? = some ej ∧ ej.job.stage ≠ .fetch) ∧
      (∃ ei ej, exampleLog[1]? = some ei ∧ exampleLog[4]? = some ej ∧ isAcceptance ei = true ∧ ej.job.stage = .fetch) ∧
      (∃ e ∈ schedule ⟨2, 5, 1, 1, 4⟩ 1 2 1, e.event.job.stage = .fetch) ∧
      (∃ e ∈ schedule ⟨2, 5, 1, 1, 4⟩ 1 2 1, isAcceptance e.event = true) ∧
      (exampleLog.filter fun e => decide (e.job.stage = .fetch)).length = 2 ∧
      (exampleLog.filter isAcceptance).length = 2 := by
  refine ⟨⟨exampleLog.take 4, ⟨⟨.fetch, none, 0, some 1⟩, 2, 4⟩, exampleLog.drop 5, by decide, by decide, by decide⟩,
    ⟨_, _, rfl, rfl, rfl⟩, ⟨_, _, rfl, rfl, by decide⟩, ⟨_, _, rfl, rfl, by decide, by decide⟩, by decide, by decide,
    by decide, by decide⟩

/-- The last event of the log of the base configuration is one that the statement on timestamps speaks of. -/
theorem witness_TimestampsNeverOverflow :
    ValidConfig (configured 2#32 1#32 2#32 State.reset) ∧
      ∃ before e, log (configured 2#32 1#32 2#32 State.reset) = before ++ e :: [] ∧ e.stop = 32 :=
  ⟨configured_valid _ rfl, (log (configured 2#32 1#32 2#32 State.reset)).dropLast,
    ⟨⟨.detect, none, 0, none⟩, 28, 32⟩, by decide, rfl⟩

/-- A timing run with ERR set and a data run of one configuration, from different states. -/
theorem witness_LogDependsOnConfigurationOnly :
    ValidConfig { configured 1#32 1#32 1#32 State.reset with err := true } ∧
      ValidConfig (configured 1#32 1#32 1#32 (loaded 0#32)) ∧ ValidData State.reset .timing ∧
      ValidData (configured 1#32 1#32 1#32 (loaded 0#32)) .data := by
  have valid : ∀ s : State, s.params = State.reset.params → ValidConfig (configured 1#32 1#32 1#32 s) := by
    intro s hp
    have variants : ∀ l, l < 1 → (4#32).toNat / 4 ^ l % 4 ≤ 1 := by decide
    have durations : ∀ g, 0 ≤ ((⟨2#32, 5#32, 1#32, 1#32, 4#32⟩ : PerStage Word).get g).toInt := by
      intro g; cases g <;> decide
    have capacity : (1#32).toNat * ((1#32).toNat * (1 + 3 * (1#32).toNat) + 1) ≤ State.reset.params.evmax := by decide
    exact ⟨(by decide : 1 ≤ (1#32).toInt ∧ (1#32).toInt ≤ 8), variants, durations, (by decide : 0 < (1#32).toInt),
      (by decide : 0 < (1#32).toInt), hp ▸ capacity⟩
  refine ⟨valid { State.reset with err := true } rfl, valid (loaded 0#32) rfl, trivial, rfl, by decide, fun n hn => ?_⟩
  have h : ∀ n, n < 2 → (Memory.readWord (loaded 0#32).mem (0x03000000 + 4 * n)).any
      (fun w => decide (w.toNat < 65536)) = true := by decide
  have hn2 : n < 2 := hn
  cases hw : Memory.readWord (loaded 0#32).mem (0x03000000 + 4 * n) with
  | none => exact absurd (h n hn2) (by rw [hw]; decide)
  | some w =>
    have hlt := h n hn2
    rw [hw] at hlt
    exact ⟨w, hw, of_decide_eq_true hlt⟩

/-- CommandsFailFast, CommandsKeepHostRegisters, CommandsKeepStagingBuffers, OnlyLoadWritesArray, IrqFollowsEnabledFlags:
commands that succeed and commands that fail, of every family. -/
theorem witness_exec_next :
    ∀ i ∈ [Instr.nop, .load 2 2, .load 3 2, .compute 2 0 1, .compute 2 3 0, .act 1 3, .act 2 0, .decomp, .reasm, .run .timing,
      .run .data], ∃ t, exec i (configured 1#32 1#32 1#32 (loaded 0#32)) = .next t := by
  have h : ∀ i ∈ [Instr.nop, .load 2 2, .load 3 2, .compute 2 0 1, .compute 2 3 0, .act 1 3, .act 2 0, .decomp, .reasm,
      .run .timing, .run .data], (after (exec i (configured 1#32 1#32 1#32 (loaded 0#32))) fun _ => ()).isSome = true := by
    decide
  exact fun i hi => answers_next (h i hi)

/-- CommandsStopOnlyAtUnwrittenWords: each command that reads, at a word that nothing has written. -/
theorem witness_CommandsStopOnlyAtUnwrittenWords :
    faultOf (exec (.load 2 2) State.reset) = some (.uninitRead 0x01000000) ∧
      faultOf (exec (.load 2 2) { State.reset with mem := Memory.writeWords [] 0x01000000 [1#32, 1#32, 1#32] }) =
        some (.uninitRead 0x0100000C) ∧
      faultOf (exec (.compute 2 3 0) { loaded 0#32 with mem := [] }) = some (.uninitRead 0x03000018) ∧
      faultOf (exec (.act 1 3) { State.reset with mem := Memory.writeWords [] 0x04000030 [1#32] }) =
        some (.uninitRead 0x04000034) ∧
      faultOf (exec (.run .data) { configured 2#32 1#32 2#32 (loaded 0#32) with
        mem := Memory.writeWords [] 0x03000000 [1#32] }) = some (.uninitRead 0x03000004) := by
  decide

/-- The first and the last word each command reads, in `ReadsWord`. -/
theorem witness_ReadsWord :
    ReadsWord (.load 2 2) State.reset 0 0x01000000 ∧ ReadsWord (.load 2 2) State.reset 3 0x0100000C ∧
      ReadsWord (.compute 2 3 0) (loaded 0#32) 1 0x0300001C ∧ ReadsWord (.act 1 3) State.reset 3 0x0400003C ∧
      ReadsWord (.run .data) (configured 2#32 1#32 2#32 (loaded 0#32)) 7 0x0300001C := by
  refine ⟨?_, ?_, ?_, ?_, configured_valid _ rfl, by decide⟩ <;> unfold ReadsWord <;> decide

/-- The accesses of R68 at their ends, and the register after one of them. -/
theorem witness_BusyHoldsAllButListed :
    [readAccess 0x000#32, readAccess 0x01C#32, writeAccess 0x014#32 6#32, writeAccess 0x01C#32 3#32].all
        (fun a => decide (PassesWhileBusy a)) = true ∧
      [readAccess 0x010#32, writeAccess 0x000#32 0#32, { readAccess 0x014#32 with size := 1#2 }].all
        (fun a => decide (¬ PassesWhileBusy a)) = true := by
  exact ⟨by decide, by decide⟩

theorem witness_HeldAccessCompletesNext :
    ({ State.reset with held := some (readAccess 0x020#32), inputs := [.elapse] } : State).busy = false ∧
      ({ State.reset with held := some (readAccess 0x020#32), inputs := [.elapse] } : State).held =
        some (readAccess 0x020#32) := by decide

/-- The last word in use of each region of the instance, and the first offset past it. -/
theorem witness_BusErrorsExactly :
    (∀ off ∈ [0x060, 0x0100000C, 0x0200000C, 0x0300001C, 0x0400003C, 0x050007FC], Mapped State.reset.params off) ∧
      (∀ off ∈ [0x064, 0x00FFFFFC, 0x01000010, 0x02000010, 0x03000020, 0x04000040, 0x05000800, 0x06000000, 0xFFFFFFFC],
        ¬ Mapped State.reset.params off) ∧
      Offers { State.reset with inputs := [.access (readAccess 0x064#32)] } (readAccess 0x064#32) [] := by
  exact ⟨by decide, by decide, rfl, rfl, rfl⟩

/-- ReadsHaveNoSideEffect: a register, a written word and an unwritten word of EVLOG, at the ends of the ranges. -/
theorem witness_read_values :
    registerWord State.reset 0x060 = some 0#32 ∧ registerWord State.reset 0x064 = none ∧
      registerWord { staged 0x50000000#32 with errCode := .illegal, errOpc := 0xF#4 } 0x020 = some 0xF20#32 ∧
      Memory.readWord (staged 0#32).mem 0x0400003C = some 0xFFFFFFFF#32 ∧
      Memory.readWord (staged 0#32).mem 0x050007FC = none := by
  decide +kernel

theorem witness_ReadsHaveNoSideEffect :
    Offers { State.reset with inputs := [.access (readAccess 0x000#32)] } (readAccess 0x000#32) [] ∧
      ∃ t, step { State.reset with inputs := [.access (readAccess 0x000#32)] } = .next t :=
  ⟨⟨rfl, rfl, rfl⟩, answers_next (by decide)⟩

/-- StatusWriteClearsByOnes, StatusReadsFourFlags, CommandWriteSetsBusy, SoftResetClearsRegisters, IrqFollowsEnabledFlags
and the statements on reads and writes of places: any access may be the one offered. -/
theorem witness_offers (a : Access) (rest : List Input) :
    Offers { State.reset with inputs := .access a :: rest } a rest := ⟨rfl, rfl, rfl⟩

/-- The offsets of RW registers at the ends of their clauses. -/
theorem witness_WritableRegistersReadBack :
    [0x030#32, 0x034#32, 0x040#32, 0x060#32].all (fun off => decide
      (off = 0x030#32 ∨ off = 0x034#32 ∨ (0x040#32 ≤ off ∧ off ≤ 0x060#32 ∧ off.toNat % 4 = 0))) = true := by decide

/-- The ends of the read-only places. -/
theorem witness_ReadOnlyWritesIgnored :
    ∀ off ∈ [0x000, 0x00C, 0x020, 0x02C, 0x038, 0x03C, 0x02000000, 0x0200000C, 0x05000000, 0x050007FC],
      off % 4 = 0 ∧ (off < 0x010 ∨ (0x020 ≤ off ∧ off < 0x030) ∨ off = 0x038 ∨ off = 0x03C ∨
        (0x02000000 ≤ off ∧ off < 0x02000000 + 4 * (2 * 2)) ∨ (0x05000000 ≤ off ∧ off < 0x05000000 + 32 * 64)) := by decide

/-- The ends of the buffers the host may write. -/
theorem witness_BufferWriteStoresOneWord :
    ∀ off ∈ [0x01000000, 0x0100000C, 0x03000000, 0x0300001C, 0x04000000, 0x0400003C],
      off % 4 = 0 ∧ ((0x01000000 ≤ off ∧ off < 0x01000000 + 4 * (2 * 2)) ∨
        (0x03000000 ≤ off ∧ off < 0x03000000 + 4 * (4 * 2)) ∨ (0x04000000 ≤ off ∧ off < 0x04000000 + 8 * (4 * 2))) := by
  decide

/-- The last cell, with an array loaded and with none. -/
theorem witness_WarrReadsLoadedCells :
    3 < State.reset.params.rows * State.reset.params.cols ∧ (loaded 0#32).wvalid = true ∧ State.reset.wvalid = false ∧
      (loaded 0#32).ArrayCoherent ∧ State.reset.ArrayCoherent :=
  ⟨by decide, by decide, by decide, loaded_coherent _, ⟨rfl, fun h => nomatch h⟩⟩

/-- ResetRegisterValues, ResetSatisfiesInvariant: the smallest and the largest instance, and the one of `State.reset`. -/
theorem witness_legal_instances :
    (⟨1, 1, 1, 1⟩ : Params).legal ∧ (⟨2048, 2048, 256, 524288⟩ : Params).legal ∧ State.reset.params.legal := by decide

theorem witness_HardwareResetAbortsAndClears :
    ({ loaded 0x20020001#32 with busy := true, inputs := [.hardwareReset, .elapse] } : State).inputs =
      [.hardwareReset, .elapse] := rfl

/-- The last chunk of the last image and its last layer. -/
theorem witness_LogIsInSubmissionOrder :
    ((schedule ⟨2, 5, 1, 1, 4⟩ 2 2 2).map fun e => e.event.job)[1 * (2 * 7 + 1) + 1 * 7 + 3 * 1 + 3]? =
      some ⟨.transfer, some 1, 1, some 1⟩ := by decide

/-- A state of the invariant with a log, an array, an error and a held access, whose next step completes the access. -/
theorem witness_StepKeepsInvariant :
    ∃ s t : State, s.Inv ∧ step s = .next t ∧ s.evcount = 1#32 ∧ s.err = true ∧ s.wvalid = true ∧ s.held.isSome = true := by
  refine ⟨{ State.reset with
    warr := weights, wnib := weights.map decompose, wvalid := true, err := true, errCode := .range, evcount := 1#32
    mem := Memory.writeWords [] 0x05000000 [0xF0#32, 0#32, 0#32, 0#32, 0#32, 0#32, 2#32, 0#32]
    held := some (readAccess 0x020#32) }, ?_⟩
  obtain ⟨t, ht⟩ := answers_next (r := step { State.reset with
    warr := weights, wnib := weights.map decompose, wvalid := true, err := true, errCode := .range, evcount := 1#32
    mem := Memory.writeWords [] 0x05000000 [0xF0#32, 0#32, 0#32, 0#32, 0#32, 0#32, 2#32, 0#32]
    held := some (readAccess 0x020#32) }) (by decide)
  refine ⟨t, ⟨by decide, by decide, by decide, ⟨rfl, fun _ => rfl⟩, by decide, by decide, by decide, ?_,
    by decide, by decide, ?_⟩, ht, rfl, rfl, rfl, rfl⟩
  · have h : ∀ k, k < 8 → (Memory.readWord (Memory.writeWords [] 0x05000000
        [0xF0#32, 0#32, 0#32, 0#32, 0#32, 0#32, 2#32, 0#32]) (evlogAddr 0 k)).isSome = true := by decide
    intro n k hn hk
    obtain rfl : n = 0 := Nat.lt_one_iff.mp hn
    exact h k hk
  · rintro a ⟨⟩
    decide

theorem witness_StartedCommandCompletes :
    ({ loaded 0x20020001#32 with busy := true } : State).busy = true ∧
      ({ loaded 0x20020001#32 with busy := true } : State).inputs = [] := by decide

end Sys2Proof.Tests
end

section
/-! Encoding: the words of the specification's examples (30_encoding.md R107). -/

namespace Sys2Proof.Proofs

/-- Settles O4: a fixed word for each fixed command, evaluated by its format of R92; the lines are the formats LD, CP,
AC, Z (DECOMP, REASM), RN and Z (NOP). -/
theorem exampleEncodings : Obligations.ExampleEncodings :=
  ⟨by decide, by decide,
    by decide, by decide,
    by decide, by decide,
    by decide, by decide,
    by decide, by decide,
    by decide⟩

end Sys2Proof.Proofs
end

section
/-! Codec: an operand is the base-16 numeral of its four digits (40_codec.md R120 to R122). -/

namespace Sys2Proof.Proofs

open Sys2Proof.Machine

theorem decompose_d0_toNat (x : Operand) : (decompose x).d0.toNat = x.toNat / 2 ^ 12 := by
  simp only [decompose, BitVec.extractLsb'_toNat, Nat.shiftRight_eq_div_pow]
  omega

theorem decompose_d1_toNat (x : Operand) : (decompose x).d1.toNat = x.toNat / 2 ^ 8 % 2 ^ 4 := by
  simp only [decompose, BitVec.extractLsb'_toNat, Nat.shiftRight_eq_div_pow]

theorem decompose_d2_toNat (x : Operand) : (decompose x).d2.toNat = x.toNat / 2 ^ 4 % 2 ^ 4 := by
  simp only [decompose, BitVec.extractLsb'_toNat, Nat.shiftRight_eq_div_pow]

theorem decompose_d3_toNat (x : Operand) : (decompose x).d3.toNat = x.toNat % 2 ^ 4 := by
  simp only [decompose, BitVec.extractLsb'_toNat, Nat.shiftRight_zero]

/-- The weighted sum of four digits is below 2^16, so the 16-bit result is the sum itself (R121). -/
theorem reassemble_toNat (v : NibbleVector) :
    (reassemble v).toNat = v.d0.toNat * 2 ^ 12 + v.d1.toNat * 2 ^ 8 + v.d2.toNat * 2 ^ 4 + v.d3.toNat := by
  rw [reassemble, BitVec.toNat_ofNat, Nat.mod_eq_of_lt]
  omega

theorem reassemble_decompose (x : Operand) : reassemble (decompose x) = x := by
  apply BitVec.eq_of_toNat_eq
  rw [reassemble_toNat, decompose_d0_toNat, decompose_d1_toNat, decompose_d2_toNat, decompose_d3_toNat]
  omega

theorem nibbleVector_eq_of_toNat_eq {u v : NibbleVector} (h0 : u.d0.toNat = v.d0.toNat)
    (h1 : u.d1.toNat = v.d1.toNat) (h2 : u.d2.toNat = v.d2.toNat) (h3 : u.d3.toNat = v.d3.toNat) : u = v := by
  cases u
  cases v
  simp_all only [BitVec.toNat_inj]

/-- Each digit is below 2^4, so a division by its weight and a remainder pick it out of the sum. -/
theorem decompose_reassemble (v : NibbleVector) : decompose (reassemble v) = v := by
  apply nibbleVector_eq_of_toNat_eq
  case h0 => rw [decompose_d0_toNat, reassemble_toNat]; omega
  case h1 => rw [decompose_d1_toNat, reassemble_toNat]; omega
  case h2 => rw [decompose_d2_toNat, reassemble_toNat]; omega
  case h3 => rw [decompose_d3_toNat, reassemble_toNat]; omega

/-- Settles O8: both ways by the digits of the base-16 numeral. -/
theorem codecRoundTrip : Obligations.CodecRoundTrip :=
  ⟨reassemble_decompose, decompose_reassemble⟩

end Sys2Proof.Proofs
end

section
/-! MAC array: the nibble product is the product of the operands, so mac accumulates exact sums (41_mac_array.md R142,
R143, R148, R151), and a LOAD commits the whole of WBUF or nothing (R144, R145). -/

namespace Sys2Proof.Proofs

open Sys2Proof.Machine Sys2Proof.Claims

/-! ## The nibble product -/

theorem sum_map_indexedDigits (v : NibbleVector) (f : Nat × Nibble → Nat) :
    ((indexedDigits v).map f).sum = f (0, v.d0) + (f (1, v.d1) + (f (2, v.d2) + f (3, v.d3))) := by
  simp only [indexedDigits, List.map_cons, List.map_nil, List.sum_cons, List.sum_nil, Nat.add_zero]

/-- The weight 2^SH(i, j) of a partial product is the product of the weights of its digits (R141), so the 16 terms are
the expansion of the product of the two numerals. -/
theorem product_eq_reassemble_mul (u v : NibbleVector) :
    product u v = (reassemble u).toNat * (reassemble v).toNat := by
  rw [reassemble_toNat, reassemble_toNat]
  simp only [product, sum_map_indexedDigits, mul4, partialShift]
  ring

theorem product_decompose (x w : Operand) : product (decompose x) (decompose w) = x.toNat * w.toNat := by
  rw [product_eq_reassemble_mul, reassemble_decompose, reassemble_decompose]

/-! ## The sum of the rows from one row on -/

/-- The operand of cell (r, c), as `dot` reads it (R46). -/
def weight (s : State) (r c : Nat) : Operand := s.warr.getD (r * s.params.cols + c) 0#16

/-- What the rows from row r on add to accumulator c when `xs` is the rest of the input vector. -/
def dotFrom (s : State) (c r : Nat) (xs : List Operand) : Nat :=
  ((List.range xs.length).map fun k => (xs.getD k 0#16).toNat * (weight s (r + k) c).toNat).sum

theorem dot_eq_dotFrom (s : State) (c : Nat) (xs : List Operand) : dot s c xs = dotFrom s c 0 xs := by
  simp only [dot, dotFrom, weight, Nat.zero_add]

@[simp] theorem dotFrom_nil (s : State) (c r : Nat) : dotFrom s c r [] = 0 := rfl

@[simp] theorem dotFrom_cons (s : State) (c r : Nat) (x : Operand) (xs : List Operand) :
    dotFrom s c r (x :: xs) = x.toNat * (weight s r c).toNat + dotFrom s c (r + 1) xs := by
  simp only [dotFrom, List.length_cons, List.range_succ_eq_map, List.map_cons, List.map_map, List.sum_cons,
    Function.comp_def, List.getD_cons_zero, List.getD_cons_succ, Nat.add_zero, Nat.succ_eq_add_one,
    Nat.add_assoc, Nat.add_comm 1]

/-- Each product of two operands is at most (2^16 − 1)^2. -/
theorem dotFrom_le (s : State) (c r : Nat) (xs : List Operand) : dotFrom s c r xs ≤ xs.length * (2 ^ 16 - 1) ^ 2 := by
  induction xs generalizing r with
  | nil => simp
  | cons x xs ih =>
    have hx : x.toNat ≤ 2 ^ 16 - 1 := by omega
    have hw : (weight s r c).toNat ≤ 2 ^ 16 - 1 := by omega
    have hprod : x.toNat * (weight s r c).toNat ≤ (2 ^ 16 - 1) ^ 2 := by
      rw [Nat.pow_two]
      exact Nat.mul_le_mul hx hw
    have hrest := ih (r + 1)
    rw [dotFrom_cons, List.length_cons]
    omega

/-! ## The accumulator -/

/-- The nibble cache holds the digits of the array (R47). Both defaults are 0, so this needs no bound on r and c. -/
theorem cellDigits_of_coherent {s : State} (h : s.ArrayCoherent) (r c : Nat) :
    cellDigits s r c = decompose (weight s r c) := by
  have hzero : (⟨0#4, 0#4, 0#4, 0#4⟩ : NibbleVector) = decompose 0#16 := by decide
  rw [cellDigits, weight, h.nibbles, hzero, List.getD_map]

theorem accumulate_nil (s : State) (c r : Nat) (a : Accum) : accumulate s c [] r a = a := rfl

/-- By the unfolding equation and not by `rfl`: evaluating the product's shifts by 2^24 is too deep for the kernel. -/
theorem accumulate_cons (s : State) (c r : Nat) (x : Operand) (xs : List Operand) (a : Accum) :
    accumulate s c (x :: xs) r a =
      accumulate s c xs (r + 1) (a + BitVec.ofNat 48 (product (decompose x) (cellDigits s r c))) := by
  rw [accumulate.eq_def]

/-- The inner loop adds the exact sum of the remaining rows, modulo 2^48 (R148). -/
theorem accumulate_eq_add_dotFrom {s : State} (h : s.ArrayCoherent) (c : Nat) (xs : List Operand) (r : Nat)
    (a : Accum) :
    accumulate s c xs r a = a + BitVec.ofNat 48 (dotFrom s c r xs) := by
  induction xs generalizing r a with
  | nil => rw [accumulate_nil, dotFrom_nil, BitVec.add_zero]
  | cons x xs ih =>
    rw [accumulate_cons, ih, cellDigits_of_coherent h, product_decompose, dotFrom_cons, BitVec.ofNat_add,
      BitVec.add_assoc]

theorem accumulate_eq_dot {s : State} (h : s.ArrayCoherent) (c : Nat) (xs : List Operand) :
    accumulate s c xs 0 0#48 = BitVec.ofNat 48 (dot s c xs) := by
  rw [accumulate_eq_add_dotFrom h, dot_eq_dotFrom, BitVec.zero_add]

theorem dot_le_rows (s : State) (c : Nat) {xs : List Operand} (h : xs.length ≤ s.params.rows) :
    dot s c xs ≤ s.params.rows * (2 ^ 16 - 1) ^ 2 := by
  rw [dot_eq_dotFrom]
  exact (dotFrom_le s c 0 xs).trans (Nat.mul_le_mul_right _ h)

/-- The bound of R151 is what R ≤ 2048 is for. -/
theorem rows_bound {p : Params} (h : p.legal) : p.rows * (2 ^ 16 - 1) ^ 2 < 2 ^ 43 := by
  obtain ⟨⟨-, hrows⟩, -⟩ := h
  omega

/-- A value below 2^47 is non-negative in the 48-bit accumulator, so it reads as itself. -/
theorem accum_toInt_ofNat {n : Nat} (h : n < 2 ^ 47) : (BitVec.ofNat 48 n).toInt = n := by
  have hn : (BitVec.ofNat 48 n).toNat = n := by rw [BitVec.toNat_ofNat, Nat.mod_eq_of_lt (by omega)]
  rw [BitVec.toInt_eq_toNat_of_lt (by omega), hn]

/-- Settles O14: the accumulator is the exact sum modulo 2^48, and that sum is below 2^43. -/
theorem macIsExactWithoutOverflow : Obligations.MacIsExactWithoutOverflow := by
  intro s c xs hlegal hcoherent _ _ hlen
  have hle := dot_le_rows s c hlen
  have hlt := rows_bound hlegal
  refine ⟨?_, hle, hlt⟩
  rw [accumulate_eq_dot hcoherent, accum_toInt_ofNat (by omega)]

/-! ## LOAD -/

theorem exec_load (rows cols : Nat) (s : State) : exec (.load rows cols) s = execLoad rows cols s := rfl

/-- Once the declared shape is the array's, what remains of LOAD's checks is the reading of WBUF (R144). -/
theorem loadWeights_eq_ok {rows cols : Nat} {s : State} {ws : List Operand} (h : loadWeights rows cols s = .ok ws) :
    rows = s.params.rows ∧ cols = s.params.cols ∧ readWeights s = .ok ws := by
  rw [loadWeights] at h
  split at h
  case isTrue => cases h
  case isFalse hrows =>
    split at h
    case isTrue => cases h
    case isFalse hcols => exact ⟨not_not.1 hrows, not_not.1 hcols, h⟩

/-- The weights LOAD reads are the R·C words of WBUF in order. -/
theorem readWeights_eq_ok (s : State) (ws : List Operand) :
    readWeights s = .ok ws ↔
      ws.length = s.params.cells ∧ ∀ i (h : i < ws.length), HoldsOperand s.mem (0x01000000 + 4 * i) ws[i] := by
  simp only [readWeights, readOperands_eq_ok, HoldsOperand, Config.wbufBase, Nat.zero_add]

/-- A LOAD that answers a next state has committed all of WBUF or failed with one error. -/
theorem execLoad_next {rows cols : Nat} {s t : State} (h : execLoad rows cols s = .next t) :
    (∃ ws, readWeights s = .ok ws ∧ t = succeed (commitLoad ws s)) ∨ ∃ e, t = failCommand e s := by
  obtain ⟨ws, hws, ht⟩ | ⟨e, -, ht⟩ := finish_map_next h
  · obtain ⟨-, -, hread⟩ := loadWeights_eq_ok hws
    exact .inl ⟨ws, hread, ht⟩
  · exact .inr ⟨e, ht⟩

/-- Settles O18: the only write of a LOAD is its commit, and a failure enters the error and touches no cell. -/
theorem loadIsAllOrNothing : Obligations.LoadIsAllOrNothing := by
  intro s t rows cols h
  rw [exec_load] at h
  obtain ⟨ws, hread, rfl⟩ | ⟨e, rfl⟩ := execLoad_next h
  case inl =>
    obtain ⟨hlen, hcells⟩ := (readWeights_eq_ok s ws).1 hread
    exact .inl ⟨rfl, hlen, rfl, hcells⟩
  case inr => exact .inr ⟨rfl, rfl, rfl⟩

end Sys2Proof.Proofs
end

section
/-! Scheduler: what serving one occupation and a list of them does (42_scheduler.md R173, R177), and the number of
events of a run (R181). -/

namespace Sys2Proof.Proofs

open Sys2Proof.Machine Sys2Proof.Claims

/-! ## Serving one occupation -/

/-- A job whose event is a chunk's acceptance (R175). -/
abbrev AcceptsChunk (j : Job) : Prop := j.stage = .compute ∧ j.layer = some 0

theorem isAcceptance_iff (e : Event) : isAcceptance e = true ↔ AcceptsChunk e.job := by
  rw [isAcceptance, Bool.and_eq_true, decide_eq_true_iff, decide_eq_true_iff]

@[simp] theorem bookBuffer_free (j : Job) (start : Nat) (t : Timeline) : (bookBuffer j start t).free = t.free := by
  unfold bookBuffer
  split <;> rfl

@[simp] theorem bookBuffer_ready (j : Job) (start : Nat) (t : Timeline) : (bookBuffer j start t).ready = t.ready := by
  unfold bookBuffer
  split <;> rfl

theorem bookBuffer_accept_of_acceptsChunk {j : Job} (h : AcceptsChunk j) (start : Nat) (t : Timeline) :
    (bookBuffer j start t).accept = start := by
  obtain ⟨hstage, hlayer⟩ := h
  rw [bookBuffer, hstage, hlayer]
  rfl

theorem bookBuffer_accept_of_not {j : Job} (h : ¬ AcceptsChunk j) (start : Nat) (t : Timeline) :
    (bookBuffer j start t).accept = t.accept := by
  unfold bookBuffer
  split
  case h_2 hstage hlayer => exact absurd ⟨hstage, hlayer⟩ h
  all_goals rfl

@[simp] theorem serve_job (d : PerStage Nat) (t : Timeline) (j : Job) : (serve d t j).event.job = j := rfl

theorem serve_start (d : PerStage Nat) (t : Timeline) (j : Job) :
    (serve d t j).event.start = max (t.free.get j.stage) (readyTime t j) := rfl

theorem serve_stop (d : PerStage Nat) (t : Timeline) (j : Job) :
    (serve d t j).event.stop = (serve d t j).event.start + d.get j.stage := rfl

@[simp] theorem serve_after_free (d : PerStage Nat) (t : Timeline) (j : Job) :
    (serve d t j).after.free = t.free.set j.stage (serve d t j).event.stop := bookBuffer_free ..

@[simp] theorem serve_after_ready (d : PerStage Nat) (t : Timeline) (j : Job) :
    (serve d t j).after.ready = (serve d t j).event.stop := bookBuffer_ready ..

theorem serve_after_accept_of_acceptsChunk (d : PerStage Nat) (t : Timeline) {j : Job} (h : AcceptsChunk j) :
    (serve d t j).after.accept = (serve d t j).event.start := bookBuffer_accept_of_acceptsChunk h ..

theorem serve_after_accept_of_not (d : PerStage Nat) (t : Timeline) {j : Job} (h : ¬ AcceptsChunk j) :
    (serve d t j).after.accept = t.accept := bookBuffer_accept_of_not h ..

theorem readyTime_of_fetch (t : Timeline) {j : Job} (h : j.stage = .fetch) : readyTime t j = t.accept := by
  rw [readyTime, h]

theorem readyTime_of_not_fetch (t : Timeline) {j : Job} (h : j.stage ≠ .fetch) : readyTime t j = t.ready := by
  unfold readyTime
  split
  case h_1 hfetch => exact absurd hfetch h
  all_goals rfl

/-! ## Serving a list of occupations -/

@[simp] theorem serveAll_nil (d : PerStage Nat) (t : Timeline) : serveAll d [] t = [] := rfl

@[simp] theorem serveAll_cons (d : PerStage Nat) (j : Job) (js : List Job) (t : Timeline) :
    serveAll d (j :: js) t = serve d t j :: serveAll d js (serve d t j).after := rfl

@[simp] theorem length_serveAll (d : PerStage Nat) (js : List Job) (t : Timeline) :
    (serveAll d js t).length = js.length := by
  induction js generalizing t with
  | nil => rfl
  | cons j js ih => rw [serveAll_cons, List.length_cons, ih, List.length_cons]

/-- The events of occupations served in order from a timeline on. -/
def eventsOf (d : PerStage Nat) (js : List Job) (t : Timeline) : List Event := (serveAll d js t).map Emission.event

@[simp] theorem eventsOf_nil (d : PerStage Nat) (t : Timeline) : eventsOf d [] t = [] := rfl

@[simp] theorem eventsOf_cons (d : PerStage Nat) (j : Job) (js : List Job) (t : Timeline) :
    eventsOf d (j :: js) t = (serve d t j).event :: eventsOf d js (serve d t j).after := rfl

/-! ## The number of events -/

theorem length_chunkJobs (layers img k : Nat) : (chunkJobs layers img k).length = 1 + 3 * layers := by
  have hlayer : ∀ l, (layerJobs img k l).length = 3 := fun _ => rfl
  simp [chunkJobs, List.length_flatMap, hlayer, Nat.add_comm, Nat.mul_comm]

theorem length_imageJobs (chunks layers img : Nat) :
    (imageJobs chunks layers img).length = chunks * (1 + 3 * layers) + 1 := by
  simp [imageJobs, List.length_flatMap, length_chunkJobs]

theorem length_runJobs (images chunks layers : Nat) :
    (runJobs images chunks layers).length = images * (chunks * (1 + 3 * layers) + 1) := by
  simp [runJobs, List.length_flatMap, length_imageJobs]

/-- Settles O29: every occupation of the run gives one event. -/
theorem eventCountFormula : Obligations.EventCountFormula := by
  intro d images chunks layers
  rw [schedule, length_serveAll, length_runJobs]

end Sys2Proof.Proofs
end

section
/-! Scheduler: each fetch but the first starts at the acceptance of the chunk before it (42_scheduler.md R188). -/

namespace Sys2Proof.Proofs

open Sys2Proof.Machine Sys2Proof.Claims

/-! ## The order of fetches and acceptances in submission order -/

/-- A list of occupations with the fetches of `n` chunks, each followed at once by the chunk's acceptance, and no other
acceptance: what R188 needs of the submission order (R172, R177). -/
inductive AcceptedAfterFetch : Nat → List Job → Prop where
  | nil : AcceptedAfterFetch 0 []
  | chunk {n : Nat} {f c : Job} {js : List Job} (hf : f.stage = .fetch) (hc : AcceptsChunk c)
      (hjs : AcceptedAfterFetch n js) : AcceptedAfterFetch (n + 1) (f :: c :: js)
  | other {n : Nat} {j : Job} {js : List Job} (hf : j.stage ≠ .fetch) (hc : ¬ AcceptsChunk j)
      (hjs : AcceptedAfterFetch n js) : AcceptedAfterFetch n (j :: js)

theorem AcceptedAfterFetch.append {m n : Nat} {js ks : List Job} (hjs : AcceptedAfterFetch m js)
    (hks : AcceptedAfterFetch n ks) : AcceptedAfterFetch (m + n) (js ++ ks) := by
  induction hjs with
  | nil => rwa [Nat.zero_add]
  | chunk hf hc _ ih =>
    rw [Nat.succ_add_eq_add_succ]
    exact .chunk hf hc ih
  | other hf hc _ ih => exact .other hf hc ih

theorem AcceptedAfterFetch.flatMap {n : Nat} {f : Nat → List Job} (xs : List Nat)
    (h : ∀ x ∈ xs, AcceptedAfterFetch n (f x)) : AcceptedAfterFetch (xs.length * n) (xs.flatMap f) := by
  induction xs with
  | nil => simpa using AcceptedAfterFetch.nil
  | cons x xs ih =>
    rw [List.forall_mem_cons] at h
    rw [List.length_cons, Nat.succ_mul, Nat.add_comm, List.flatMap_cons]
    exact h.1.append (ih h.2)

theorem layerJobs_succ_acceptedAfterFetch (img k l : Nat) : AcceptedAfterFetch 0 (layerJobs img k (l + 1)) :=
  .other (by simp) (by simp) (.other (by simp) (by simp) (.other (by simp) (by simp) .nil))

theorem chunkJobs_acceptedAfterFetch (layers img k : Nat) :
    AcceptedAfterFetch 1 (chunkJobs (layers + 1) img k) := by
  have hlater : AcceptedAfterFetch 0 ((List.range layers).flatMap fun l => layerJobs img k (l + 1)) := by
    simpa using AcceptedAfterFetch.flatMap (List.range layers)
      fun l _ => layerJobs_succ_acceptedAfterFetch img k l
  rw [chunkJobs, List.range_succ_eq_map, List.flatMap_cons, List.flatMap_map]
  exact .chunk rfl ⟨rfl, rfl⟩ (.other (by simp) (by simp) (.other (by simp) (by simp) hlater))

theorem imageJobs_acceptedAfterFetch (chunks layers img : Nat) :
    AcceptedAfterFetch chunks (imageJobs chunks (layers + 1) img) := by
  have hchunks := AcceptedAfterFetch.flatMap (List.range chunks)
    fun k _ => chunkJobs_acceptedAfterFetch layers img k
  rw [List.length_range, Nat.mul_one] at hchunks
  exact hchunks.append (.other (by simp) (by simp) .nil)

theorem runJobs_acceptedAfterFetch (images chunks layers : Nat) :
    AcceptedAfterFetch (images * chunks) (runJobs images chunks (layers + 1)) := by
  have himages := AcceptedAfterFetch.flatMap (List.range images)
    fun img _ => imageJobs_acceptedAfterFetch chunks layers img
  rwa [List.length_range] at himages

/-! ## The fetches and acceptances among the events -/

/-- The fetches among events, in log order. -/
def fetchesOf (es : List Event) : List Event := es.filter fun e => decide (e.job.stage = .fetch)

/-- The acceptances among events, in log order. -/
def acceptancesOf (es : List Event) : List Event := es.filter isAcceptance

/-- From FREE[0] = `free` and ACCEPT = `accept` on, fetches alternate with acceptances: each fetch starts by R173 and
R175 from the fetch and the acceptance before it, and ends before its own chunk's acceptance starts. -/
inductive Alternate : (free accept : Nat) → (fetches acceptances : List Event) → Prop where
  | nil {free accept : Nat} : Alternate free accept [] []
  | cons {free accept : Nat} {f a : Event} {fs as : List Event} (hstart : f.start = max free accept)
      (hends : f.stop ≤ a.start) (hrest : Alternate f.stop a.start fs as) : Alternate free accept (f :: fs) (a :: as)

/-- R188 at chunk g: the fetch after it starts at the later of its fetch's end and its acceptance, which is the latter. -/
theorem Alternate.next_fetch {free accept g : Nat} {fetches acceptances : List Event} {f next a : Event}
    (h : Alternate free accept fetches acceptances) (hf : fetches[g]? = some f) (hnext : fetches[g + 1]? = some next)
    (ha : acceptances[g]? = some a) : next.start = max f.stop a.start ∧ f.stop ≤ a.start := by
  induction h generalizing g with
  | nil => cases hf
  | cons _ hends hrest ih =>
    cases g with
    | zero =>
      cases hf
      cases ha
      cases hrest with
      | nil => cases hnext
      | cons hstart _ _ =>
        cases hnext
        exact ⟨hstart, hends⟩
    | succ g => exact ih hf hnext ha

theorem fetchesOf_cons_fetch {e : Event} (h : e.job.stage = .fetch) (es : List Event) :
    fetchesOf (e :: es) = e :: fetchesOf es := List.filter_cons_of_pos (decide_eq_true h)

theorem fetchesOf_cons_other {e : Event} (h : e.job.stage ≠ .fetch) (es : List Event) :
    fetchesOf (e :: es) = fetchesOf es := List.filter_cons_of_neg (by simpa using h)

theorem acceptancesOf_cons_acceptance {e : Event} (h : AcceptsChunk e.job) (es : List Event) :
    acceptancesOf (e :: es) = e :: acceptancesOf es := List.filter_cons_of_pos ((isAcceptance_iff e).2 h)

theorem acceptancesOf_cons_other {e : Event} (h : ¬ AcceptsChunk e.job) (es : List Event) :
    acceptancesOf (e :: es) = acceptancesOf es := List.filter_cons_of_neg (mt (isAcceptance_iff e).1 h)

/-- Serving a fetch and its chunk's acceptance adds one event to each list. -/
theorem eventsOf_chunk (d : PerStage Nat) (t : Timeline) {f c : Job} (js : List Job) (hf : f.stage = .fetch)
    (hc : AcceptsChunk c) :
    fetchesOf (eventsOf d (f :: c :: js) t) =
        (serve d t f).event :: fetchesOf (eventsOf d js (serve d (serve d t f).after c).after) ∧
      acceptancesOf (eventsOf d (f :: c :: js) t) =
        (serve d (serve d t f).after c).event ::
          acceptancesOf (eventsOf d js (serve d (serve d t f).after c).after) := by
  have hfnot : ¬ AcceptsChunk f := by simp [AcceptsChunk, hf]
  have hcnot : c.stage ≠ .fetch := by simp [hc.1]
  rw [eventsOf_cons, eventsOf_cons, fetchesOf_cons_fetch hf, fetchesOf_cons_other hcnot,
    acceptancesOf_cons_other hfnot, acceptancesOf_cons_acceptance hc]
  exact ⟨rfl, rfl⟩

/-- Serving any other occupation adds no event to either list. -/
theorem eventsOf_other (d : PerStage Nat) (t : Timeline) {j : Job} (js : List Job) (hf : j.stage ≠ .fetch)
    (hc : ¬ AcceptsChunk j) :
    fetchesOf (eventsOf d (j :: js) t) = fetchesOf (eventsOf d js (serve d t j).after) ∧
      acceptancesOf (eventsOf d (j :: js) t) = acceptancesOf (eventsOf d js (serve d t j).after) :=
  ⟨fetchesOf_cons_other hf _, acceptancesOf_cons_other hc _⟩

/-- A fetch leaves its end in FREE[0] and in `ready`, its acceptance leaves its start in ACCEPT, and no other occupation
touches FREE[0] or ACCEPT (R173, R175). -/
theorem AcceptedAfterFetch.alternate {n : Nat} {js : List Job} (h : AcceptedAfterFetch n js) (d : PerStage Nat)
    (t : Timeline) :
    Alternate (t.free.get .fetch) t.accept (fetchesOf (eventsOf d js t)) (acceptancesOf (eventsOf d js t)) := by
  induction h generalizing t with
  | nil => exact .nil
  | @chunk n f c js hf hc _ ih =>
    have hcnot : c.stage ≠ .fetch := by simp [hc.1]
    obtain ⟨hfetches, hacceptances⟩ := eventsOf_chunk d t js hf hc
    have hrest := ih (serve d (serve d t f).after c).after
    rw [serve_after_free, PerStage.get_set_other _ _ hcnot.symm, serve_after_free, hf, PerStage.get_set_same,
      serve_after_accept_of_acceptsChunk d _ hc] at hrest
    rw [hfetches, hacceptances]
    refine .cons ?_ ?_ hrest
    · rw [serve_start, readyTime_of_fetch t hf, hf]
    · rw [serve_start, readyTime_of_not_fetch _ hcnot, serve_after_ready]
      exact le_max_right ..
  | @other n j js hf hc _ ih =>
    obtain ⟨hfetches, hacceptances⟩ := eventsOf_other d t js hf hc
    have hrest := ih (serve d t j).after
    rw [serve_after_free, PerStage.get_set_other _ _ hf.symm, serve_after_accept_of_not d t hc] at hrest
    rwa [hfetches, hacceptances]

theorem AcceptedAfterFetch.counts {n : Nat} {js : List Job} (h : AcceptedAfterFetch n js) (d : PerStage Nat)
    (t : Timeline) :
    (fetchesOf (eventsOf d js t)).length = n ∧ (acceptancesOf (eventsOf d js t)).length = n := by
  induction h generalizing t with
  | nil => exact ⟨rfl, rfl⟩
  | @chunk n f c js hf hc _ ih =>
    obtain ⟨hfetches, hacceptances⟩ := eventsOf_chunk d t js hf hc
    obtain ⟨hfetchCount, hacceptCount⟩ := ih (serve d (serve d t f).after c).after
    rw [hfetches, hacceptances, List.length_cons, List.length_cons, hfetchCount, hacceptCount]
    exact ⟨rfl, rfl⟩
  | @other n j js hf hc _ ih =>
    obtain ⟨hfetches, hacceptances⟩ := eventsOf_other d t js hf hc
    rw [hfetches, hacceptances]
    exact ih _

/-- Settles O34: the acceptance of a chunk starts no earlier than its fetch ends, so of the two that bound the next
fetch it is the later one. -/
theorem fetchStartsAtAcceptance : Obligations.FetchStartsAtAcceptance := by
  intro d images chunks layers fetches acceptances hlayers hfetches hacceptances
  obtain ⟨l, rfl⟩ := Nat.exists_eq_add_of_le' hlayers
  subst hfetches hacceptances
  have hrun := runJobs_acceptedAfterFetch images chunks l
  obtain ⟨hfetchCount, hacceptCount⟩ := hrun.counts d startTimeline
  refine ⟨hfetchCount, hacceptCount, fun g f next a hf hnext ha => ?_⟩
  obtain ⟨hstart, hends⟩ := (hrun.alternate d startTimeline).next_fetch hf hnext ha
  exact ⟨hstart.trans (max_eq_right hends), hstart, hends⟩

end Sys2Proof.Proofs
end

section
/-! Scheduler: times are bounded by the durations served so far, so no timestamp overflows (42_scheduler.md R190). -/

namespace Sys2Proof.Proofs

open Sys2Proof.Machine Sys2Proof.Claims

/-! ## Times and durations -/

/-- The duration of an event's stage. -/
abbrev durationOf (d : PerStage Nat) (e : Event) : Nat := d.get e.job.stage

/-- Every time of a timeline that an occupation can start at is at most `b`: the invariant of R190. -/
structure TimesWithin (t : Timeline) (b : Nat) : Prop where
  free : ∀ g, t.free.get g ≤ b
  accept : t.accept ≤ b
  ready : t.ready ≤ b

theorem startTimeline_timesWithin : TimesWithin startTimeline 0 :=
  ⟨by intro g; cases g <;> exact Nat.le_refl 0, Nat.le_refl 0, Nat.le_refl 0⟩

theorem readyTime_le {t : Timeline} {b : Nat} (h : TimesWithin t b) (j : Job) : readyTime t j ≤ b := by
  by_cases hf : j.stage = .fetch
  · exact readyTime_of_fetch t hf ▸ h.accept
  · exact readyTime_of_not_fetch t hf ▸ h.ready

theorem serve_start_le {t : Timeline} {b : Nat} (h : TimesWithin t b) (d : PerStage Nat) (j : Job) :
    (serve d t j).event.start ≤ b :=
  max_le (h.free j.stage) (readyTime_le h j)

theorem serve_stop_le {t : Timeline} {b : Nat} (h : TimesWithin t b) (d : PerStage Nat) (j : Job) :
    (serve d t j).event.stop ≤ b + d.get j.stage :=
  Nat.add_le_add_right (serve_start_le h d j) _

theorem serve_keeps_timesWithin {t : Timeline} {b : Nat} (h : TimesWithin t b) (d : PerStage Nat) (j : Job) :
    TimesWithin (serve d t j).after (b + d.get j.stage) where
  free g := by
    rw [serve_after_free]
    by_cases hg : g = j.stage
    · rw [hg, PerStage.get_set_same]
      exact serve_stop_le h d j
    · rw [PerStage.get_set_other _ _ hg]
      exact Nat.le_add_right_of_le (h.free g)
  accept := by
    by_cases hc : AcceptsChunk j
    · rw [serve_after_accept_of_acceptsChunk d t hc]
      exact Nat.le_add_right_of_le (serve_start_le h d j)
    · rw [serve_after_accept_of_not d t hc]
      exact Nat.le_add_right_of_le h.accept
  ready := by
    rw [serve_after_ready]
    exact serve_stop_le h d j

/-- R190's induction over the events in emission order. -/
theorem stop_le_sum_durations {d : PerStage Nat} {js : List Job} {t : Timeline} {b : Nat} {before after : List Event}
    {e : Event} (ht : TimesWithin t b) (h : eventsOf d js t = before ++ e :: after) :
    e.stop ≤ b + ((before ++ [e]).map (durationOf d)).sum := by
  induction js generalizing t b before with
  | nil => simp at h
  | cons j js ih =>
    rw [eventsOf_cons] at h
    cases before with
    | nil =>
      obtain ⟨rfl, -⟩ := List.cons.inj h
      simpa [durationOf] using serve_stop_le ht d j
    | cons x before =>
      obtain ⟨rfl, hrest⟩ := List.cons.inj h
      have hle := ih (serve_keeps_timesWithin ht d j) hrest
      rw [List.cons_append, List.map_cons, List.sum_cons, ← Nat.add_assoc]
      exact hle

theorem stop_eq_start_add {d : PerStage Nat} {js : List Job} {t : Timeline} {e : Event} (h : e ∈ eventsOf d js t) :
    e.stop = e.start + durationOf d e := by
  induction js generalizing t with
  | nil => cases h
  | cons j js ih =>
    rw [eventsOf_cons, List.mem_cons] at h
    obtain rfl | h := h
    · exact serve_stop d t j
    · exact ih h

/-- A word that is not negative as a signed value is at most 2^31 − 1. -/
theorem toNat_le_of_nonneg {w : Word} (h : 0 ≤ w.toInt) : w.toNat ≤ 2 ^ 31 - 1 := by
  rw [BitVec.toInt_eq_toNat_cond] at h
  split at h <;> omega

theorem durations_le {s : State} (h : ValidConfig s) (g : Stage) : (durations s).get g ≤ 2 ^ 31 - 1 := by
  rw [durations, PerStage.get_map]
  exact toNat_le_of_nonneg (h.durations g)

/-! ## The length of the log -/

theorem length_log (s : State) :
    (log s).length = s.images.toNat * (s.chunks.toNat * (1 + 3 * s.layers.toNat) + 1) := by
  rw [log, List.length_map, runSchedule, eventCountFormula]

theorem length_log_le {s : State} (hlegal : s.params.legal) (hconfig : ValidConfig s) : (log s).length ≤ 2 ^ 19 := by
  obtain ⟨-, -, -, -, hevmax⟩ := hlegal
  rw [length_log]
  exact hconfig.capacity.trans hevmax

/-- Settles O35: a duration is at most 2^31 − 1 and a log has at most 2^19 records. -/
theorem timestampsNeverOverflow : Obligations.TimestampsNeverOverflow := by
  intro s before after e hlegal hconfig hlog
  have hmem : e ∈ log s := by simp [hlog]
  have hsoFar : (before ++ [e]).length ≤ (log s).length := by simp [hlog]
  have hsum : ((before ++ [e]).map (durationOf (durations s))).sum ≤ (before ++ [e]).length * (2 ^ 31 - 1) := by
    have hle := List.sum_le_card_nsmul ((before ++ [e]).map (durationOf (durations s))) (2 ^ 31 - 1)
      (List.forall_mem_map.2 fun x _ => durations_le hconfig x.job.stage)
    rwa [List.length_map, smul_eq_mul] at hle
  refine ⟨?_, ?_, hsum.trans (Nat.mul_le_mul_right _ hsoFar), ?_⟩
  · rw [stop_eq_start_add hmem]
    exact Nat.le_add_right ..
  · simpa using stop_le_sum_durations startTimeline_timesWithin hlog
  · exact (Nat.mul_le_mul_right _ (length_log_le hlegal hconfig)).trans (by decide)

end Sys2Proof.Proofs
end

section
/-! RUN: what its checks accept and where its log stands, so that the log depends on the configuration alone
(42_scheduler.md R180, R184, R189). -/

namespace Sys2Proof.Proofs

open Sys2Proof.Machine Sys2Proof.Claims

theorem exec_run (mode : RunMode) (s : State) : exec (.run mode) s = execRun mode s := rfl

/-! ## What RUN's checks accept -/

/-- The code of layer l is the base-4 digit l of ACTV (R44). -/
theorem layerVariant_eq (actv : Word) (l : Nat) : layerVariant actv l = actv.toNat / 4 ^ l % 4 := by
  rw [layerVariant, BitVec.extractLsb'_toNat, Nat.shiftRight_eq_div_pow, Nat.pow_mul]

theorem readOperands_ok_of_isOperand {m : Memory} {base n : Nat} (h : ∀ j, j < n → IsOperand m (base + 4 * j)) :
    ∃ xs, readOperands m base n 0 = .ok xs := by
  cases hread : readOperands m base n 0 with
  | ok xs => exact ⟨xs, rfl⟩
  | error e =>
    obtain ⟨j, hj, -, hstop⟩ := readOperands_eq_error hread
    obtain ⟨v, hv, hlow⟩ := h j hj
    rw [Nat.zero_add, hv] at hstop
    obtain ⟨hnone, -⟩ | ⟨w, hw, hwide, -⟩ := hstop
    · cases hnone
    · cases hw
      omega

theorem runSlots_eq_slotsUsed (s : State) : runSlots s = slotsUsed s := rfl

theorem runData_ok {s : State} {mode : RunMode} (h : ValidData s mode) : ∃ xs, runData mode s = .ok xs := by
  cases mode with
  | timing => exact ⟨[], rfl⟩
  | data =>
    obtain ⟨hwvalid, hslots, hoperands⟩ := h
    have hwvalid' : ¬ s.wvalid = false := by simp [hwvalid]
    rw [← runSlots_eq_slotsUsed] at hslots
    rw [runData, if_neg hwvalid', if_neg (Nat.not_lt.2 hslots)]
    exact readOperands_ok_of_isOperand hoperands

theorem runCounts_eq_runData {s : State} (h : ValidConfig s) (mode : RunMode) : runCounts mode s = runData mode s := by
  have hcapacity : ¬ s.params.evmax < runEvents s := Nat.not_lt.2 h.capacity
  rw [runCounts, if_neg (Int.not_le.2 h.chunks), if_neg (Int.not_le.2 h.images), if_neg hcapacity]

theorem runInput_eq_runData {s : State} (h : ValidConfig s) (mode : RunMode) : runInput mode s = runData mode s := by
  obtain ⟨hlow, hhigh⟩ := h.layers
  have hlayers : ¬ (s.layers.toInt < 1 ∨ Config.lmax < s.layers.toInt) :=
    not_or.2 ⟨Int.not_lt.2 hlow, Int.not_lt.2 hhigh⟩
  have hvariants : (List.range s.layers.toNat).find? (fun l => decide (1 < layerVariant s.actv l)) = none := by
    rw [List.find?_eq_none]
    intro l hl
    have hcode := h.variants l (List.mem_range.1 hl)
    rw [decide_eq_true_iff, layerVariant_eq]
    exact Nat.not_lt.2 hcode
  have hdurations : allStages.find? (fun g => decide ((s.dur.get g).toInt < 0)) = none := by
    rw [List.find?_eq_none]
    intro g _
    rw [decide_eq_true_iff]
    exact Int.not_lt.2 (h.durations g)
  rw [runInput, if_neg hlayers, hvariants, hdurations]
  exact runCounts_eq_runData h mode

/-! ## Where the log stands -/

theorem length_logWords (es : List Emission) : (logWords es).length = 8 * es.length := by
  have hrecord : ∀ e, (recordWords e).length = 8 := fun _ => rfl
  simp [logWords, List.length_flatMap, hrecord, Nat.mul_comm]

theorem length_slotOutputs (s : State) (xs : List Operand) (q : Nat) : (slotOutputs s xs q).length = s.params.cols := by
  simp only [slotOutputs, outputs, mac, List.length_map, List.length_range]

theorem length_runOutputs (s : State) (xs : List Operand) :
    (runOutputs s xs).length = runSlots s * s.params.cols := by
  simp [runOutputs, List.length_flatMap, length_slotOutputs]

/-- The output slots end below EVLOG for all legal parameters (R10, R62). -/
theorem outputs_below_evlog {s : State} (hlegal : s.params.legal) (hslots : slotsUsed s ≤ s.params.nslot)
    (xs : List Operand) : Config.obufBase + 8 * (runOutputs s xs).length ≤ Config.evlogBase := by
  obtain ⟨-, ⟨-, hcols⟩, ⟨-, hnslot⟩, -⟩ := hlegal
  have hle : slotsUsed s * s.params.cols ≤ 256 * 2048 := Nat.mul_le_mul (hslots.trans hnslot) hcols
  rw [length_runOutputs, runSlots_eq_slotsUsed, Config.obufBase, Config.evlogBase]
  omega

/-- In either mode EVLOG holds what the schedule writes. -/
theorem readWord_commitRun_evlog {s : State} {mode : RunMode} (hlegal : s.params.legal) (hdata : ValidData s mode)
    (xs : List Operand) {off : Nat} (hoff : Config.evlogBase ≤ off) :
    Memory.readWord (commitRun mode xs s).mem off = Memory.readWord (commitSchedule s).mem off := by
  cases mode with
  | timing => rfl
  | data =>
    obtain ⟨-, hslots, -⟩ := hdata
    have hend : Config.obufBase + 8 * (runOutputs (commitSchedule s) xs).length ≤ Config.evlogBase :=
      outputs_below_evlog (s := commitSchedule s) hlegal hslots xs
    rw [commitRun, commitData_mem]
    exact Memory.readWord_writeDwords_apart _ _ _ (.inr (hend.trans hoff))

theorem commitRun_evcount (mode : RunMode) (xs : List Operand) (s : State) :
    (commitRun mode xs s).evcount = ctx (runSchedule s).length := by
  cases mode <;> rfl

/-- Word k of record n in EVLOG is word 8n + k of the log (R67, R184). -/
theorem readWord_commitSchedule_evlogAddr (s : State) {n k : Nat} (hn : n < (runSchedule s).length) (hk : k < 8) :
    Memory.readWord (commitSchedule s).mem (evlogAddr n k) = (logWords (runSchedule s))[8 * n + k]? := by
  have hlt : 8 * n + k < (logWords (runSchedule s)).length := by rw [length_logWords]; omega
  have haddr : evlogAddr n k = Config.evlogBase + 4 * (8 * n + k) := by rw [evlogAddr]; omega
  rw [commitSchedule_mem, haddr, Memory.readWord_writeWords _ _ _ hlt]

/-! ## RUN completes with its log -/

/-- Both modes end with EVCOUNT and the records of the schedule of the configuration registers. -/
theorem exec_run_writes_schedule {s : State} {mode : RunMode} (hlegal : s.params.legal) (hconfig : ValidConfig s)
    (hdata : ValidData s mode) :
    ∃ t, exec (.run mode) s = .next t ∧ t.evcount = ctx (runSchedule s).length ∧
      ∀ n k, n < (runSchedule s).length → k < 8 →
        Memory.readWord t.mem (evlogAddr n k) = (logWords (runSchedule s))[8 * n + k]? := by
  obtain ⟨xs, hxs⟩ := runData_ok hdata
  refine ⟨succeed (commitRun mode xs s), ?_, commitRun_evcount mode xs s, fun n k hn hk => ?_⟩
  · rw [exec_run, execRun, runInput_eq_runData hconfig, hxs, finish_map_ok]
  · have hoff : Config.evlogBase ≤ evlogAddr n k := by rw [evlogAddr]; omega
    rw [succeed_mem, readWord_commitRun_evlog hlegal hdata xs hoff, readWord_commitSchedule_evlogAddr s hn hk]

theorem runSchedule_congr {s1 s2 : State} (hdur : s1.dur = s2.dur) (hchunks : s1.chunks = s2.chunks)
    (himages : s1.images = s2.images) (hlayers : s1.layers = s2.layers) : runSchedule s1 = runSchedule s2 := by
  rw [runSchedule, runSchedule, durations, durations, hdur, hchunks, himages, hlayers]

/-- EVCOUNT holds the number of events without loss. -/
theorem ctx_length_runSchedule {s : State} (hlegal : s.params.legal) (hconfig : ValidConfig s) :
    (ctx (runSchedule s).length).toNat = (runSchedule s).length := by
  have hle := length_log_le hlegal hconfig
  rw [log, List.length_map] at hle
  rw [BitVec.toNat_ofNat, Nat.mod_eq_of_lt (by omega)]

/-- Settles O36: both runs write the schedule of their configuration registers, and these agree. -/
theorem logDependsOnConfigurationOnly : Obligations.LogDependsOnConfigurationOnly := by
  intro s1 s2 m1 m2 hlegal1 hlegal2 hdur hchunks himages hlayers hconfig1 hconfig2 hdata1 hdata2
  obtain ⟨t1, hexec1, hcount1, hlog1⟩ := exec_run_writes_schedule hlegal1 hconfig1 hdata1
  obtain ⟨t2, hexec2, hcount2, hlog2⟩ := exec_run_writes_schedule hlegal2 hconfig2 hdata2
  rw [← runSchedule_congr hdur hchunks himages hlayers] at hcount2 hlog2
  have hevents : t1.evcount.toNat = (runSchedule s1).length := by
    rw [hcount1, ctx_length_runSchedule hlegal1 hconfig1]
  refine ⟨t1, t2, hexec1, hexec2, hcount1.trans hcount2.symm, ?_, fun n k hn hk => ?_⟩
  · rw [hevents, runSchedule, eventCountFormula]
  · rw [hevents] at hn
    have hlt : 8 * n + k < (logWords (runSchedule s1)).length := by rw [length_logWords]; omega
    rw [hlog1 n k hn hk, hlog2 n k hn hk, List.getElem?_eq_getElem hlt]
    exact ⟨rfl, rfl⟩

end Sys2Proof.Proofs
end

section
/-! Activation: act on the signed value, its corner values and where leaky is idempotent (43_activation.md R210,
R211). -/

namespace Sys2Proof.Proofs

open Sys2Proof.Machine

/-- leaky of R210 on the signed value: x >> 3 is floor(x / 8) (R13). -/
theorem activate_leaky_toInt (x : Dword) :
    (activate .leaky x).toInt = if x.toInt < 0 then x.toInt / 8 else x.toInt := by
  by_cases hneg : x.toInt < 0
  · simp [activate, BitVec.slt_iff_toInt_lt, hneg, Int.shiftRight_eq_div_pow]
  · simp [activate, BitVec.slt_iff_toInt_lt, hneg]

/-- Of the negative values only −1 is its own floor(x / 8). -/
theorem activate_leaky_eq_self_iff (x : Dword) : activate .leaky x = x ↔ -1 ≤ x.toInt := by
  rw [← BitVec.toInt_inj, activate_leaky_toInt]
  split <;> omega

/-- A second leaky changes nothing where the first one gives a fixed point. -/
theorem activate_leaky_idem_iff (x : Dword) :
    activate .leaky (activate .leaky x) = activate .leaky x ↔ -8 ≤ x.toInt := by
  rw [activate_leaky_eq_self_iff, activate_leaky_toInt]
  split <;> omega

/-- Settles O24: the corner values by evaluation, the rest by the fixed points of leaky. -/
theorem activationCornerValues : Obligations.ActivationCornerValues := by
  refine ⟨⟨by decide, by decide, by decide,
    by decide, by decide, by decide, by decide, by decide, by decide, by decide, by decide, by decide,
    by decide, by decide⟩, fun x => ?_⟩
  rw [activate_leaky_idem_iff]
  omega

end Sys2Proof.Proofs
end

section
/-! Control: a word that encodes no command is accepted, and its completion records it as E_ILLEGAL (44_control.md
R221). -/

namespace Sys2Proof.Proofs

open Sys2Proof.Machine Sys2Proof.Claims

/-! ## The decoder rejects illegal words -/

theorem unlessReserved_of_ne_zero {reserved : Nat} (h : reserved ≠ 0) (i : Instr) :
    unlessReserved reserved i = .error .reservedBit := if_neg h

theorem fieldOf_zero (w : Word) (n : Nat) : fieldOf w 0 n = w.toNat % 2 ^ n := by
  rw [fieldOf_eq, Nat.pow_zero, Nat.div_one]

theorem decode_of_reservedOpcode {w : Word} (h : 7 ≤ w.toNat / 2 ^ 28) : decode w = .error .reservedOpcode := by
  obtain ⟨n, hopc⟩ := Nat.exists_eq_add_of_le' h
  rw [decode, opcOf_toNat, hopc]
  rfl

/-- A word that is not of a reserved opcode (R101) has a reserved field of its opcode's format that is not 0 (R92,
R100). -/
theorem decode_of_illegalWord {w : Word} (h : IllegalWord w) : ∃ e, decode w = .error e := by
  obtain hopc | ⟨hopc, hbits⟩ | ⟨hopc, hbits⟩ | ⟨hopc, hbits⟩ | ⟨hopc, hbits⟩ := h
  case inl => exact ⟨_, decode_of_reservedOpcode hopc⟩
  all_goals refine ⟨.reservedBit, ?_⟩
  · obtain hopc | hopc | hopc := hopc <;> rw [decode, opcOf_toNat, hopc] <;>
      exact unlessReserved_of_ne_zero (by rwa [fieldOf_zero]) _
  · rw [decode, opcOf_toNat, hopc]
    exact unlessReserved_of_ne_zero (by rwa [fieldOf_eq]) _
  · rw [decode, opcOf_toNat, hopc]
    exact unlessReserved_of_ne_zero (by rwa [fieldOf_eq]) _
  · rw [decode, opcOf_toNat, hopc]
    exact unlessReserved_of_ne_zero (by rwa [fieldOf_zero]) _

/-! ## Acceptance and completion -/

/-- Acceptance does not look at the word (R28, R221). -/
theorem step_commandWrite {s : State} {w : Word} {rest : List Input} (h : Offers s (writeAccess 0x010#32 w) rest) :
    step s = .next (respond .written (acceptCommand w (takeInputs rest s))) := by
  obtain ⟨hbusy, hheld, hinputs⟩ := h
  have hplace : placeOf (takeInputs rest s).params (writeAccess 0x010#32 w) = some (.reg .cmd) :=
    placeOf_writeAccess _ w (by decide) (by decide) (by decide)
  rw [step_offered hbusy hheld hinputs, performAccess_write hplace rfl]
  rfl

theorem execIllegal_eq (s : State) :
    execIllegal s =
      .next (failCommand { code := .illegal, index := 0#32, value := s.cmdLatch, limit := 0#32 } s) := rfl

theorem step_rejectedCommand {s : State} {e : DecodeReject} {rest : List Input} (hbusy : s.busy = true)
    (hinputs : s.inputs = .elapse :: rest) (hreject : decode s.cmdLatch = .error e) :
    step s = .next (failCommand { code := .illegal, index := 0#32, value := s.cmdLatch, limit := 0#32 }
      (takeInputs rest s)) := by
  rw [step_elapse hinputs, deviceStep_busy (by rwa [takeInputs_busy]),
    runLatched_rejected (by rwa [takeInputs_cmdLatch]), execIllegal_eq, takeInputs_cmdLatch]

/-! ## The error code register -/

/-- OPC stands in bits 11:8 above the 8 bits of CODE (R32). -/
theorem errCodeWord_toNat (s : State) :
    (errCodeWord s).toNat = s.errOpc.toNat * 256 + (errorNumber s.errCode).toNat := by
  have hcode := (errorNumber s.errCode).isLt
  rw [errCodeWord, BitVec.toNat_append, ← Nat.shiftLeft_add_eq_or_of_lt hcode, Nat.shiftLeft_eq, BitVec.toNat_append]
  simp

/-- Settles O7: the step of the CMD write latches the word, which the decoder rejects at the step that completes it. -/
theorem illegalWordFailsWithItself : Obligations.IllegalWordFailsWithItself := by
  intro s w rest hillegal hoffers
  obtain ⟨e, hreject⟩ := decode_of_illegalWord hillegal
  refine ⟨_, _, step_commandWrite hoffers, rfl, step_rejectedCommand rfl rfl hreject, rfl, ?_⟩
  have hopc : (w.extractLsb' 28 4).toNat = w.toNat / 2 ^ 28 := opcOf_toNat w
  rw [errCodeWord_toNat, ← hopc]
  rfl

end Sys2Proof.Proofs
end

section
/-! Encoding: a format's fields are read back from its word, and a word is the sum of its opcode's and its fields'
places (30_encoding.md R91, R92, R100 to R103). -/

namespace Sys2Proof.Proofs

open Sys2Proof.Claims

/-! ## Reserved bits and field widths -/

@[simp] theorem unlessReserved_zero (i : Instr) : unlessReserved 0 i = .ok i := rfl

theorem unlessReserved_eq_ok {reserved : Nat} {i j : Instr} :
    unlessReserved reserved i = .ok j ↔ reserved = 0 ∧ i = j := by
  by_cases h : reserved = 0
  · simp [h]
  · simp [unlessReserved_of_ne_zero h, h]

theorem fieldOf_lt (w : Word) (lo n : Nat) : fieldOf w lo n < 2 ^ n := by
  rw [fieldOf_eq]
  exact Nat.mod_lt _ (Nat.two_pow_pos n)

/-- The mode of a RUN word's field D (R97). -/
def modeOf (d : Nat) : RunMode := if d = 1 then .data else .timing

theorem modeOf_modeNumber (mode : RunMode) : modeOf (modeNumber mode) = mode := by
  cases mode <;> rfl

theorem modeNumber_modeOf {d : Nat} (h : d < 2) : modeNumber (modeOf d) = d := by
  match d, h with
  | 0, _ => rfl
  | 1, _ => rfl

theorem modeNumber_lt (mode : RunMode) : modeNumber mode < 2 := by
  cases mode <;> decide

/-! ## The decoder, one format at a time -/

theorem decode_nop {w : Word} (h : w.toNat / 2 ^ 28 = 0) : decode w = unlessReserved (fieldOf w 0 28) .nop := by
  rw [decode, opcOf_toNat, h]
  rfl

theorem decode_load {w : Word} (h : w.toNat / 2 ^ 28 = 1) :
    decode w = unlessReserved (fieldOf w 24 4) (.load (fieldOf w 12 12) (fieldOf w 0 12)) := by
  rw [decode, opcOf_toNat, h]
  rfl

theorem decode_compute {w : Word} (h : w.toNat / 2 ^ 28 = 2) :
    decode w = .ok (.compute (fieldOf w 16 12) (fieldOf w 8 8) (fieldOf w 0 8)) := by
  rw [decode, opcOf_toNat, h]
  rfl

theorem decode_act {w : Word} (h : w.toNat / 2 ^ 28 = 3) :
    decode w = unlessReserved (fieldOf w 10 18) (.act (fieldOf w 8 2) (fieldOf w 0 8)) := by
  rw [decode, opcOf_toNat, h]
  rfl

theorem decode_decomp {w : Word} (h : w.toNat / 2 ^ 28 = 4) :
    decode w = unlessReserved (fieldOf w 0 28) .decomp := by
  rw [decode, opcOf_toNat, h]
  rfl

theorem decode_reasm {w : Word} (h : w.toNat / 2 ^ 28 = 5) : decode w = unlessReserved (fieldOf w 0 28) .reasm := by
  rw [decode, opcOf_toNat, h]
  rfl

theorem decode_run {w : Word} (h : w.toNat / 2 ^ 28 = 6) :
    decode w = unlessReserved (fieldOf w 0 27) (.run (modeOf (fieldOf w 27 1))) := by
  rw [decode, opcOf_toNat, h]
  rfl

theorem opcode_commandWord {opc fields : Nat} (h : fields < 2 ^ 28) (ho : opc < 16) :
    (commandWord opc fields).toNat / 2 ^ 28 = opc := by
  rw [commandWord_toNat h]
  omega

/-! ## Decoding the word of a command -/

theorem decode_encode_load {rows cols : Nat} (hr : rows < 4096) (hc : cols < 4096) :
    decode (encode (.load rows cols)) = .ok (.load rows cols) := by
  have hfields : fieldAt 12 12 rows + fieldAt 0 12 cols < 2 ^ 28 := by simp only [fieldAt]; omega
  rw [encode, decode_load (opcode_commandWord hfields (by decide)), fieldOf_commandWord hfields (by decide),
    fieldOf_commandWord hfields (by decide), fieldOf_commandWord hfields (by decide), unlessReserved_eq_ok]
  simp only [fieldAt, Instr.load.injEq]
  omega

theorem decode_encode_compute {len islot oslot : Nat} (hl : len < 4096) (hi : islot < 256) (ho : oslot < 256) :
    decode (encode (.compute len islot oslot)) = .ok (.compute len islot oslot) := by
  have hfields : fieldAt 16 12 len + fieldAt 8 8 islot + fieldAt 0 8 oslot < 2 ^ 28 := by simp only [fieldAt]; omega
  rw [encode, decode_compute (opcode_commandWord hfields (by decide)), fieldOf_commandWord hfields (by decide),
    fieldOf_commandWord hfields (by decide), fieldOf_commandWord hfields (by decide), Except.ok.injEq]
  simp only [fieldAt, Instr.compute.injEq]
  omega

theorem decode_encode_act {var oslot : Nat} (hv : var < 4) (ho : oslot < 256) :
    decode (encode (.act var oslot)) = .ok (.act var oslot) := by
  have hfields : fieldAt 8 2 var + fieldAt 0 8 oslot < 2 ^ 28 := by simp only [fieldAt]; omega
  rw [encode, decode_act (opcode_commandWord hfields (by decide)), fieldOf_commandWord hfields (by decide),
    fieldOf_commandWord hfields (by decide), fieldOf_commandWord hfields (by decide), unlessReserved_eq_ok]
  simp only [fieldAt, Instr.act.injEq]
  omega

theorem decode_encode_run (mode : RunMode) : decode (encode (.run mode)) = .ok (.run mode) := by
  have hmode := modeNumber_lt mode
  have hfields : fieldAt 27 1 (modeNumber mode) < 2 ^ 28 := by simp only [fieldAt]; omega
  have hd : fieldAt 27 1 (modeNumber mode) / 2 ^ 27 % 2 ^ 1 = modeNumber mode := by simp only [fieldAt]; omega
  have hz : fieldAt 27 1 (modeNumber mode) / 2 ^ 0 % 2 ^ 27 = 0 := by simp only [fieldAt]; omega
  rw [encode, decode_run (opcode_commandWord hfields (by decide)), fieldOf_commandWord hfields (by decide),
    fieldOf_commandWord hfields (by decide), hz, hd, modeOf_modeNumber, unlessReserved_zero]

/-- Settles O1: each field of a format is read back from the sum of the fields' places. -/
theorem decodeOfEncode : Obligations.DecodeOfEncode := by
  intro i h
  cases i with
  | nop => decide
  | load rows cols =>
    simp only [Instr.wellFormed, Bool.and_eq_true, decide_eq_true_eq] at h
    exact decode_encode_load h.1 h.2
  | compute len islot oslot =>
    simp only [Instr.wellFormed, Bool.and_eq_true, decide_eq_true_eq] at h
    obtain ⟨⟨hlen, hislot⟩, hoslot⟩ := h
    exact decode_encode_compute hlen hislot hoslot
  | act var oslot =>
    simp only [Instr.wellFormed, Bool.and_eq_true, decide_eq_true_eq] at h
    exact decode_encode_act h.1 h.2
  | decomp => decide
  | reasm => decide
  | run mode => exact decode_encode_run mode

/-! ## The words that decode -/

theorem opcode_cases {n : Nat} (h : n < 7) : n = 0 ∨ n = 1 ∨ n = 2 ∨ n = 3 ∨ n = 4 ∨ n = 5 ∨ n = 6 := by omega

/-- A word that decodes has an opcode below 7. -/
theorem opcode_lt_of_decode {w : Word} {i : Instr} (h : decode w = .ok i) : w.toNat / 2 ^ 28 < 7 := by
  by_contra hopc
  rw [decode_of_reservedOpcode (Nat.not_lt.1 hopc)] at h
  cases h

/-- A word is the word of its opcode and of what stands below bit 28. -/
theorem commandWord_eq {w : Word} {opc fields : Nat} (ho : w.toNat / 2 ^ 28 = opc) (hf : w.toNat % 2 ^ 28 = fields) :
    commandWord opc fields = w := by
  have hw := w.isLt
  apply BitVec.eq_of_toNat_eq
  rw [commandWord_toNat (by omega)]
  omega

/-- Settles O2: the fields that the decoder reads add up to the word, as the reserved ones are 0. -/
theorem encodeOfDecode : Obligations.EncodeOfDecode := by
  intro w i h
  obtain ho | ho | ho | ho | ho | ho | ho := opcode_cases (opcode_lt_of_decode h)
  · rw [decode_nop ho, unlessReserved_eq_ok, fieldOf_zero] at h
    obtain ⟨hres, rfl⟩ := h
    exact ⟨rfl, commandWord_eq ho hres⟩
  · rw [decode_load ho, unlessReserved_eq_ok] at h
    obtain ⟨hres, rfl⟩ := h
    refine ⟨by simpa [Instr.wellFormed] using ⟨fieldOf_lt w 12 12, fieldOf_lt w 0 12⟩, commandWord_eq ho ?_⟩
    simp only [fieldAt, fieldOf_eq] at hres ⊢
    omega
  · rw [decode_compute ho, Except.ok.injEq] at h
    subst h
    refine ⟨by
      simpa [Instr.wellFormed] using ⟨⟨fieldOf_lt w 16 12, fieldOf_lt w 8 8⟩, fieldOf_lt w 0 8⟩, commandWord_eq ho ?_⟩
    simp only [fieldAt, fieldOf_eq]
    omega
  · rw [decode_act ho, unlessReserved_eq_ok] at h
    obtain ⟨hres, rfl⟩ := h
    refine ⟨by simpa [Instr.wellFormed] using ⟨fieldOf_lt w 8 2, fieldOf_lt w 0 8⟩, commandWord_eq ho ?_⟩
    simp only [fieldAt, fieldOf_eq] at hres ⊢
    omega
  · rw [decode_decomp ho, unlessReserved_eq_ok, fieldOf_zero] at h
    obtain ⟨hres, rfl⟩ := h
    exact ⟨rfl, commandWord_eq ho hres⟩
  · rw [decode_reasm ho, unlessReserved_eq_ok, fieldOf_zero] at h
    obtain ⟨hres, rfl⟩ := h
    exact ⟨rfl, commandWord_eq ho hres⟩
  · rw [decode_run ho, unlessReserved_eq_ok] at h
    obtain ⟨hres, rfl⟩ := h
    refine ⟨rfl, commandWord_eq ho ?_⟩
    rw [modeNumber_modeOf (fieldOf_lt w 27 1)]
    simp only [fieldAt, fieldOf_eq] at hres ⊢
    omega

/-- A word below opcode 7 whose format's reserved bits are 0 decodes. -/
theorem decode_of_not_illegalWord {w : Word} (h : ¬ IllegalWord w) : ∃ i, decode w = .ok i := by
  simp only [IllegalWord, not_or, not_and, not_not] at h
  obtain ⟨hopc, hz, hload, hact, hrun⟩ := h
  obtain ho | ho | ho | ho | ho | ho | ho := opcode_cases (Nat.not_le.1 hopc)
  · exact ⟨_, by rw [decode_nop ho, fieldOf_zero, hz (.inl ho), unlessReserved_zero]⟩
  · exact ⟨_, by rw [decode_load ho, fieldOf_eq, show w.toNat / 2 ^ 24 % 2 ^ 4 = 0 from hload ho, unlessReserved_zero]⟩
  · exact ⟨_, decode_compute ho⟩
  · exact ⟨_, by rw [decode_act ho, fieldOf_eq, hact ho, unlessReserved_zero]⟩
  · exact ⟨_, by rw [decode_decomp ho, fieldOf_zero, hz (.inr (.inl ho)), unlessReserved_zero]⟩
  · exact ⟨_, by rw [decode_reasm ho, fieldOf_zero, hz (.inr (.inr ho)), unlessReserved_zero]⟩
  · exact ⟨_, by rw [decode_run ho, fieldOf_zero, hrun ho, unlessReserved_zero]⟩

/-- Settles O3: the decoder rejects exactly the words that arithmetic calls illegal. -/
theorem decodesExactlyLegalWords : Obligations.DecodesExactlyLegalWords := by
  intro w
  refine ⟨fun ⟨i, hi⟩ hillegal => ?_, decode_of_not_illegalWord⟩
  obtain ⟨e, he⟩ := decode_of_illegalWord hillegal
  rw [hi] at he
  cases he

/-- Settles O5: fixed words, each evaluated by the decoder. -/
theorem exampleWordsDecode : Obligations.ExampleWordsDecode :=
  ⟨by decide, by decide,
    by decide, by decide,
    by decide, by decide,
    by decide, by decide,
    by decide, by decide⟩

end Sys2Proof.Proofs
end

section
/-! Commands: the equation of each command, and the ends of a command as R236 and R237 write them (30_encoding.md R102,
60_exceptions.md R235 to R237). -/

namespace Sys2Proof.Proofs

open Sys2Proof.Machine Sys2Proof.Claims

theorem exec_nop (s : State) : exec .nop s = execNop s := rfl

theorem exec_compute (len islot oslot : Nat) (s : State) :
    exec (.compute len islot oslot) s = execCompute len islot oslot s := rfl

theorem exec_act (var oslot : Nat) (s : State) : exec (.act var oslot) s = execAct var oslot s := rfl

theorem exec_decomp (s : State) : exec .decomp s = execDecomp s := rfl

theorem exec_reasm (s : State) : exec .reasm s = execReasm s := rfl

theorem failCommand_eq_failed (e : CmdError) (s : State) :
    failCommand e s = failed e.code e.index e.value e.limit s := rfl

/-- A raised error is all that the command leaves (R235, R236). -/
theorem finish_raise_eq_failed {α : Type} (s : State) (code : ErrorCode) (index value limit : Word) (f : α → State) :
    finish s ((raise code index value limit).map f) = .next (failed code index value limit s) := rfl

/-- Settles O37: NOP has no writes, so its completion is all it does. -/
theorem nopOnlySetsDone : Obligations.NopOnlySetsDone := by
  intro s
  rw [exec_nop, execNop, finish_ok, succeed]

end Sys2Proof.Proofs
end

section
/-! Codec commands: DECOMP and REASM move the digits of an operand to and from the bytes of CODEC_NIB (40_codec.md R123,
R124), and the nibble product is bounded (41_mac_array.md R143). -/

namespace Sys2Proof.Proofs

open Sys2Proof.Machine Sys2Proof.Claims

/-! ## Bytes of CODEC_NIB -/

theorem toNat_append_eq_add {m n : Nat} (x : BitVec m) (y : BitVec n) :
    (x ++ y).toNat = x.toNat * 2 ^ n + y.toNat := by
  rw [BitVec.toNat_append, ← Nat.shiftLeft_add_eq_or_of_lt y.isLt, Nat.shiftLeft_eq]

/-- CODEC_NIB is the base-256 numeral of the digits, digit 0 lowest (R37). -/
theorem packDigits_toNat (v : NibbleVector) :
    (packDigits v).toNat = v.d0.toNat + v.d1.toNat * 2 ^ 8 + v.d2.toNat * 2 ^ 16 + v.d3.toNat * 2 ^ 24 := by
  simp only [packDigits, toNat_append_eq_add, BitVec.toNat_setWidth]
  omega

theorem digitByte_toNat (n : Word) (i : Nat) : (digitByte n i).toNat = n.toNat / 256 ^ i % 256 := by
  rw [digitByte, BitVec.extractLsb'_toNat, Nat.shiftRight_eq_div_pow, Nat.pow_mul]

theorem digitByte_extend (n : Word) (i : Nat) :
    (digitByte n i).setWidth 32 = BitVec.ofNat 32 (n.toNat / 256 ^ i % 256) := by
  rw [← BitVec.ofNat_toNat, digitByte_toNat]

/-! ## DECOMP -/

theorem decompValue_narrow {x : Word} (h : x.toNat < 65536) :
    decompValue x = .ok (packDigits (decompose (x.setWidth 16))) := by
  rw [decompValue, if_pos ((upperHalf_eq_zero x).2 h)]

theorem decompValue_wide {x : Word} (h : 65536 ≤ x.toNat) : decompValue x = raise .range (ctx 0) x 0xFFFF#32 := by
  rw [decompValue, if_neg (mt (upperHalf_eq_zero x).1 (Nat.not_lt.2 h))]

theorem packDigits_decompose (x : Operand) :
    packDigits (decompose x) = BitVec.ofNat 32 (x.toNat / 4096 + x.toNat / 256 % 16 * 2 ^ 8 +
      x.toNat / 16 % 16 * 2 ^ 16 + x.toNat % 16 * 2 ^ 24) := by
  apply BitVec.eq_of_toNat_eq
  rw [packDigits_toNat, decompose_d0_toNat, decompose_d1_toNat, decompose_d2_toNat, decompose_d3_toNat,
    BitVec.toNat_ofNat]
  simp only [Nat.reducePow]
  omega

/-- Settles O9: the digits of the operand, packed. -/
theorem decompWritesDigits : Obligations.DecompWritesDigits := by
  intro s h
  have hx : (s.codecIn.setWidth 16).toNat = s.codecIn.toNat := by
    rw [BitVec.toNat_setWidth, Nat.mod_eq_of_lt (by omega)]
  rw [exec_decomp, execDecomp, decompValue_narrow h, finish_map_ok, packDigits_decompose, hx]
  rfl

/-- Settles O10: the value fails DECOMP's one check. -/
theorem decompRejectsWideValue : Obligations.DecompRejectsWideValue := by
  intro s h
  rw [exec_decomp, execDecomp, decompValue_wide h]
  exact finish_raise_eq_failed ..

/-! ## REASM -/

theorem reasmValue_eq (n : Word) :
    reasmValue n =
      match (List.range 4).find? (fun i => decide (15 < (digitByte n i).toNat)) with
      | some i => raise .range (ctx i) ((digitByte n i).setWidth 32) (ctx 15)
      | none => .ok ((reassemble (unpackDigits n)).setWidth 32) := rfl

theorem reasmValue_digits {n : Word} (h : ∀ i, i < 4 → n.toNat / 256 ^ i % 256 ≤ 15) :
    reasmValue n = .ok ((reassemble (unpackDigits n)).setWidth 32) := by
  have hfind : (List.range 4).find? (fun i => decide (15 < (digitByte n i).toNat)) = none := by
    rw [List.find?_eq_none]
    intro i hi
    have hle := h i (List.mem_range.1 hi)
    rw [decide_eq_true_iff, digitByte_toNat]
    omega
  rw [reasmValue_eq, hfind]

theorem reasmValue_wide {n : Word} {i : Nat} (hi : i < 4) (hwide : 15 < n.toNat / 256 ^ i % 256)
    (hbefore : ∀ j, j < i → n.toNat / 256 ^ j % 256 ≤ 15) :
    reasmValue n = raise .range (ctx i) (BitVec.ofNat 32 (n.toNat / 256 ^ i % 256)) (ctx 15) := by
  have hfind : (List.range 4).find? (fun i => decide (15 < (digitByte n i).toNat)) = some i := by
    rw [List.find?_range_eq_some]
    refine ⟨by rwa [decide_eq_true_iff, digitByte_toNat], List.mem_range.2 hi, fun j hj => ?_⟩
    have hle := hbefore j hj
    rw [Bool.not_eq_true', decide_eq_false_iff_not, digitByte_toNat]
    omega
  rw [reasmValue_eq, hfind, ← digitByte_extend]

/-- REASM's result is the base-16 numeral of the digits (R121). -/
theorem reassemble_unpackDigits_toNat {n : Word} (h : ∀ i, i < 4 → n.toNat / 256 ^ i % 256 ≤ 15) :
    (reassemble (unpackDigits n)).toNat = n.toNat % 256 * 2 ^ 12 + n.toNat / 256 % 256 * 2 ^ 8 +
      n.toNat / 65536 % 256 * 2 ^ 4 + n.toNat / 16777216 % 256 := by
  have h0 := h 0 (by decide)
  have h1 := h 1 (by decide)
  have h2 := h 2 (by decide)
  have h3 := h 3 (by decide)
  rw [reassemble_toNat]
  simp only [unpackDigits, BitVec.toNat_setWidth, digitByte_toNat]
  omega

/-- Settles O11: each byte is its digit, so REASM's check passes and the digits keep their values. -/
theorem reasmWritesWeightedSum : Obligations.ReasmWritesWeightedSum := by
  intro s d0 d1 d2 d3 h0 h1 h2 h3 hnib
  have hn : s.codecNib.toNat = d0 + d1 * 2 ^ 8 + d2 * 2 ^ 16 + d3 * 2 ^ 24 := by
    rw [hnib, BitVec.toNat_ofNat]
    omega
  have hdigits : ∀ i, i < 4 → s.codecNib.toNat / 256 ^ i % 256 ≤ 15 := by
    intro i hi
    obtain rfl | rfl | rfl | rfl : i = 0 ∨ i = 1 ∨ i = 2 ∨ i = 3 := by omega
    all_goals omega
  have hsum : (reassemble (unpackDigits s.codecNib)).toNat = d0 * 2 ^ 12 + d1 * 2 ^ 8 + d2 * 2 ^ 4 + d3 := by
    rw [reassemble_unpackDigits_toNat hdigits]
    omega
  rw [exec_reasm, execReasm, reasmValue_digits hdigits, finish_map_ok, ← BitVec.ofNat_toNat,
    hsum]
  rfl

/-- Settles O12: REASM's search finds the lowest byte above 15. -/
theorem reasmRejectsLowestWideDigit : Obligations.ReasmRejectsLowestWideDigit := by
  intro s i hi hwide hbefore
  rw [exec_reasm, execReasm, reasmValue_wide hi hwide hbefore]
  exact finish_raise_eq_failed ..

/-- Settles O13: the product of the numerals, each at most 2^16 − 1. -/
theorem nibbleProductIsExact : Obligations.NibbleProductIsExact := by
  intro x w
  have hle : x.toNat * w.toNat ≤ 65535 * 65535 := Nat.mul_le_mul (by omega) (by omega)
  rw [product_decompose]
  exact ⟨rfl, by omega⟩

end Sys2Proof.Proofs
end

section
/-! MAC array commands: LOAD and COMPUTE, their results and their errors in the written order (41_mac_array.md R144,
R147, R148, R150). -/

namespace Sys2Proof.Proofs

open Sys2Proof.Machine Sys2Proof.Claims

/-! ## Operands in a buffer -/

theorem readOperands_of_holdsOperand {m : Memory} {base n : Nat} {xs : List Operand} (hlen : xs.length = n)
    (h : ∀ j (hj : j < xs.length), HoldsOperand m (base + 4 * j) xs[j]) : readOperands m base n 0 = .ok xs := by
  rw [readOperands_eq_ok]
  exact ⟨hlen, fun j hj => by rw [Nat.zero_add]; exact h j hj⟩

/-- The lowest word that is no operand stops the reading (R144, R147, R180). -/
theorem readOperands_of_wide {m : Memory} {base n j : Nat} {w : Word} (hj : j < n)
    (hbefore : ∀ k, k < j → IsOperand m (base + 4 * k)) (hw : Memory.readWord m (base + 4 * j) = some w)
    (hwide : 65536 ≤ w.toNat) : readOperands m base n 0 = raise .range (ctx j) w 0xFFFF#32 := by
  have h := readOperands_range (base := base) (i := 0) hj (fun k hk => by rw [Nat.zero_add]; exact hbefore k hk)
    (by rwa [Nat.zero_add]) hwide
  rwa [Nat.zero_add] at h

/-! ## LOAD -/

theorem loadWeights_of_shape (s : State) : loadWeights s.params.rows s.params.cols s = readWeights s := by
  rw [loadWeights, if_neg (not_not.2 rfl), if_neg (not_not.2 rfl)]

/-- Settles O15: with the array's shape LOAD reads all of WBUF and commits it. -/
theorem loadReplacesArray : Obligations.LoadReplacesArray := by
  intro s ws hlen hcells
  rw [exec_load, execLoad, loadWeights_of_shape, (readWeights_eq_ok s ws).2 ⟨hlen, hcells⟩, finish_map_ok]
  rfl

/-- Settles O16: the two checks of the shape, rows first. -/
theorem loadRejectsOtherShape : Obligations.LoadRejectsOtherShape := by
  intro s rows cols
  refine ⟨fun hrows => ?_, fun hrows hcols => ?_⟩
  · rw [exec_load, execLoad, loadWeights, if_pos hrows]
    exact finish_raise_eq_failed ..
  · rw [exec_load, execLoad, loadWeights, if_neg (not_not.2 hrows), if_pos hcols]
    exact finish_raise_eq_failed ..

/-- Settles O17: reading WBUF stops at its lowest wide word. -/
theorem loadRejectsLowestWideWeight : Obligations.LoadRejectsLowestWideWeight := by
  intro s i w hi hbefore hw hwide
  rw [exec_load, execLoad, loadWeights_of_shape, readWeights, readOperands_of_wide hi hbefore hw hwide]
  exact finish_raise_eq_failed ..

/-! ## Results of mac -/

@[simp] theorem length_mac (s : State) (xs : List Operand) : (mac s xs).length = s.params.cols := by
  rw [mac, List.length_map, List.length_range]

@[simp] theorem length_outputs (accs : List Accum) : (outputs accs).length = accs.length := List.length_map ..

theorem mac_getElem? {s : State} (h : s.ArrayCoherent) (xs : List Operand) {c : Nat} (hc : c < s.params.cols) :
    (mac s xs)[c]? = some (BitVec.ofNat 48 (dot s c xs)) := by
  rw [mac, List.getElem?_map, List.getElem?_range hc, Option.map_some, accumulate_eq_dot h]

/-- A value below 2^47 is not negative, so its sign extension is the value (R150). -/
theorem accum_signExtend_ofNat {n : Nat} (h : n < 2 ^ 47) :
    (BitVec.ofNat 48 n).signExtend 64 = BitVec.ofNat 64 n := by
  rw [BitVec.signExtend, accum_toInt_ofNat h, BitVec.ofInt_natCast]

theorem dot_lt {s : State} (hlegal : s.params.legal) (c : Nat) {xs : List Operand} (h : xs.length ≤ s.params.rows) :
    dot s c xs < 2 ^ 47 := by
  have hle := dot_le_rows s c h
  have hlt := rows_bound hlegal
  omega

theorem outputs_mac_getElem? {s : State} (hlegal : s.params.legal) (h : s.ArrayCoherent) {xs : List Operand}
    (hlen : xs.length ≤ s.params.rows) {c : Nat} (hc : c < s.params.cols) :
    (outputs (mac s xs))[c]? = some (BitVec.ofNat 64 (dot s c xs)) := by
  rw [outputs, List.getElem?_map, mac_getElem? h xs hc, Option.map_some, accum_signExtend_ofNat (dot_lt hlegal c hlen)]

/-! ## COMPUTE -/

theorem ibufAddr_add (p : Params) (slot r : Nat) :
    ibufAddr p slot 0 + 4 * r = 0x03000000 + 4 * (slot * p.rows + r) := by
  rw [ibufAddr, Config.ibufBase]
  omega

theorem obufAddr_add (p : Params) (slot c : Nat) : obufAddr p slot 0 + 8 * c = obufAddr p slot c := by
  rw [obufAddr, obufAddr]
  omega

theorem readDword_writeDwords_obufAddr (m : Memory) (p : Params) (slot : Nat) {ds : List Dword} {c : Nat}
    (hc : c < ds.length) :
    Memory.readDword (Memory.writeDwords m (obufAddr p slot 0) ds) (obufAddr p slot c) = ds[c]? := by
  rw [← obufAddr_add p slot c, Memory.readDword_writeDwords _ _ _ hc]

theorem readInput_of_holdsInput {s : State} {slot : Nat} {xs : List Operand} (h : HoldsInput s slot xs) :
    readInput s slot = .ok xs :=
  readOperands_of_holdsOperand h.1 fun j hj => by rw [ibufAddr_add]; exact h.2 j hj

/-- Once COMPUTE's checks of the array, the length and the slots pass, it reads its input slot (R147). -/
theorem computeInput_of_checks {s : State} {islot oslot : Nat} (hwvalid : s.wvalid = true)
    (hi : islot < s.params.nslot) (ho : oslot < s.params.nslot) :
    computeInput s.params.rows islot oslot s = readInput s islot := by
  rw [computeInput, if_neg (by simp [hwvalid]), if_neg (not_not.2 rfl), if_neg (Nat.not_le.2 hi),
    if_neg (Nat.not_le.2 ho)]

/-- Settles O19: the accumulators are the exact sums, and the output slot takes their sign extensions. -/
theorem computeWritesDotProducts : Obligations.ComputeWritesDotProducts := by
  intro s islot oslot xs hlegal hcoherent hwvalid hi ho hinput
  refine ⟨succeed (commitCompute oslot xs s), ?_, rfl, length_mac s xs, fun c hc => ⟨mac_getElem? hcoherent xs hc, ?_⟩,
    fun a ha => ?_⟩
  · rw [exec_compute, execCompute, computeInput_of_checks hwvalid hi ho, readInput_of_holdsInput hinput, finish_map_ok]
  · rw [succeed_mem, commitCompute_mem, readDword_writeDwords_obufAddr _ _ _ (by simpa using hc),
      outputs_mac_getElem? hlegal hcoherent hinput.1.le hc]
  · rw [succeed_mem, commitCompute_mem, Memory.readByte_writeDwords_apart _ _ _ (by simpa using ha)]

/-- Settles O20: the four checks before the input, in order. -/
theorem computeErrorOrder : Obligations.ComputeErrorOrder := by
  intro s len islot oslot
  rw [exec_compute, execCompute, computeInput]
  refine ⟨fun hw => ?_, fun hw hlen => ?_, fun hw hlen hi => ?_, fun hw hlen hi ho => ?_⟩
  · rw [if_pos hw]
    exact finish_raise_eq_failed ..
  · rw [if_neg (by simp [hw]), if_pos hlen]
    exact finish_raise_eq_failed ..
  · rw [if_neg (by simp [hw]), if_neg (not_not.2 hlen), if_pos hi]
    exact finish_raise_eq_failed ..
  · rw [if_neg (by simp [hw]), if_neg (not_not.2 hlen), if_neg (Nat.not_le.2 hi), if_pos ho]
    exact finish_raise_eq_failed ..

/-- Settles O21: reading the input slot stops at its lowest wide word. -/
theorem computeRejectsLowestWideInput : Obligations.ComputeRejectsLowestWideInput := by
  intro s islot oslot r w hwvalid hi ho hr hbefore hw hwide
  have hread : readInput s islot = raise .range (ctx r) w 0xFFFF#32 :=
    readOperands_of_wide hr (fun k hk => by rw [ibufAddr_add]; exact hbefore k hk) (by rwa [ibufAddr_add]) hwide
  rw [exec_compute, execCompute, computeInput_of_checks hwvalid hi ho, hread]
  exact finish_raise_eq_failed ..

end Sys2Proof.Proofs
end

section
/-! Activation command: ACT transforms the values of one output slot (43_activation.md R210, R212). -/

namespace Sys2Proof.Proofs

open Sys2Proof.Machine Sys2Proof.Claims

/-! ## Variants -/

theorem variantOf_of_le {code : Nat} (h : code ≤ 1) : ∃ v, variantOf code = some v := by
  match code, h with
  | 0, _ => exact ⟨_, rfl⟩
  | 1, _ => exact ⟨_, rfl⟩

theorem variantOf_of_ge {code : Nat} (h : 2 ≤ code) : variantOf code = none := by
  obtain ⟨n, rfl⟩ := Nat.exists_eq_add_of_le' h
  rfl

theorem activate_relu_toInt (x : Dword) : (activate .relu x).toInt = if x.toInt < 0 then 0 else x.toInt := by
  by_cases hneg : x.toInt < 0
  · simp [activate, BitVec.slt_iff_toInt_lt, hneg]
  · simp [activate, BitVec.slt_iff_toInt_lt, hneg]

/-- Each variant is its code's interpretation on the signed value (R210). -/
theorem activate_toInt {code : Nat} {v : Variant} (h : variantOf code = some v) (x : Dword) :
    (activate v x).toInt = actInt code x.toInt := by
  match code, h with
  | 0, h =>
    cases h
    rw [activate_relu_toInt, actInt, if_pos rfl]
    split <;> split <;> omega
  | 1, h =>
    cases h
    rw [activate_leaky_toInt, actInt, if_neg Nat.one_ne_zero, Int.fdiv_eq_ediv_of_nonneg _ (by decide)]
    split <;> split <;> omega

/-- No activation changes a value that is not negative (R210). -/
theorem activate_of_nonneg (v : Variant) {x : Dword} (h : 0 ≤ x.toInt) : activate v x = x := by
  have hslt : x.slt 0#64 = false := by
    rw [Bool.eq_false_iff, Ne, BitVec.slt_iff_toInt_lt]
    exact Int.not_lt.2 h
  cases v <;> rw [activate, hslt, if_neg Bool.false_ne_true]

/-! ## ACT -/

theorem readOutput_of_readDword {s : State} {slot : Nat} {ds : List Dword} (hlen : ds.length = s.params.cols)
    (h : ∀ c (hc : c < ds.length), Memory.readDword s.mem (obufAddr s.params slot c) = some ds[c]) :
    readOutput s slot = .ok ds := by
  rw [readOutput, readDwords_eq_ok]
  exact ⟨hlen, fun c hc => by rw [obufAddr_add]; exact h c hc⟩

/-- Once ACT's checks pass, it reads its slot and transforms every value (R212). -/
theorem actValues_of_checks {s : State} {var oslot : Nat} {v : Variant} (hv : variantOf var = some v)
    (ho : oslot < s.params.nslot) :
    actValues var oslot s = (readOutput s oslot).map fun ds => ds.map (activate v) := by
  rw [actValues, hv]
  exact if_neg (Nat.not_le.2 ho)

/-- Settles O22: the slot is written back with the activation of each value. -/
theorem actTransformsSlot : Obligations.ActTransformsSlot := by
  intro s var oslot ds hvar ho hlen hds
  obtain ⟨v, hv⟩ := variantOf_of_le hvar
  refine ⟨succeed { s with mem := Memory.writeDwords s.mem (obufAddr s.params oslot 0) (ds.map (activate v)) }, ?_, rfl,
    fun c hc => ⟨activate v ds[c], ?_, activate_toInt hv _⟩, fun a ha => ?_⟩
  · rw [exec_act, execAct, actValues_of_checks hv ho, readOutput_of_readDword hlen hds]
    rfl
  · refine (readDword_writeDwords_obufAddr _ _ _ (by simpa using hc)).trans ?_
    rw [List.getElem?_map, List.getElem?_eq_getElem hc, Option.map_some]
  · exact Memory.readByte_writeDwords_apart _ _ _ (by simpa [hlen] using ha)

/-- Settles O23: the variant's check comes before the slot's. -/
theorem actErrorOrder : Obligations.ActErrorOrder := by
  intro s var oslot
  refine ⟨fun hvar => ?_, fun hvar ho => ?_⟩
  · rw [exec_act, execAct, actValues, variantOf_of_ge hvar]
    exact finish_raise_eq_failed ..
  · obtain ⟨v, hv⟩ := variantOf_of_le hvar
    rw [exec_act, execAct, actValues, hv]
    simp only [if_pos ho]
    exact finish_raise_eq_failed ..

end Sys2Proof.Proofs
end

section
/-! RUN: its checks, one at a time in the order of R180, and the errors they raise (42_scheduler.md R180). -/

namespace Sys2Proof.Proofs

open Sys2Proof.Machine Sys2Proof.Claims

/-! ## The searches -/

theorem find_variant_none {s : State} (h : ∀ l, l < s.layers.toNat → s.actv.toNat / 4 ^ l % 4 ≤ 1) :
    (List.range s.layers.toNat).find? (fun l => decide (1 < layerVariant s.actv l)) = none := by
  rw [List.find?_eq_none]
  intro l hl
  rw [decide_eq_true_iff, layerVariant_eq]
  exact Nat.not_lt.2 (h l (List.mem_range.1 hl))

theorem find_variant_some {s : State} {l : Nat} (hl : l < s.layers.toNat)
    (hbefore : ∀ k, k < l → s.actv.toNat / 4 ^ k % 4 ≤ 1) (hcode : 1 < s.actv.toNat / 4 ^ l % 4) :
    (List.range s.layers.toNat).find? (fun l => decide (1 < layerVariant s.actv l)) = some l := by
  rw [List.find?_range_eq_some]
  refine ⟨by rwa [decide_eq_true_iff, layerVariant_eq], List.mem_range.2 hl, fun k hk => ?_⟩
  rw [Bool.not_eq_true', decide_eq_false_iff_not, layerVariant_eq]
  exact Nat.not_lt.2 (hbefore k hk)

theorem find_duration_none {s : State} (h : ∀ g, 0 ≤ (s.dur.get g).toInt) :
    allStages.find? (fun g => decide ((s.dur.get g).toInt < 0)) = none := by
  rw [List.find?_eq_none]
  intro g _
  rw [decide_eq_true_iff]
  exact Int.not_lt.2 (h g)

/-- The stages stand in the order of their numbers (R170). -/
theorem allStages_eq_append (g : Stage) :
    ∃ before after, allStages = before ++ g :: after ∧ ∀ h ∈ before, stageNumber h < stageNumber g := by
  cases g with
  | fetch => exact ⟨[], _, rfl, by decide⟩
  | compute => exact ⟨[.fetch], _, rfl, by decide⟩
  | activate => exact ⟨[.fetch, .compute], _, rfl, by decide⟩
  | transfer => exact ⟨[.fetch, .compute, .activate], _, rfl, by decide⟩
  | detect => exact ⟨[.fetch, .compute, .activate, .transfer], _, rfl, by decide⟩

theorem find_duration_some {s : State} {g : Stage} (hneg : (s.dur.get g).toInt < 0)
    (hbefore : ∀ h, stageNumber h < stageNumber g → 0 ≤ (s.dur.get h).toInt) :
    allStages.find? (fun g => decide ((s.dur.get g).toInt < 0)) = some g := by
  obtain ⟨before, after, hall, hlt⟩ := allStages_eq_append g
  rw [List.find?_eq_some_iff_append]
  refine ⟨decide_eq_true hneg, before, after, hall, fun h hmem => ?_⟩
  rw [Bool.not_eq_true', decide_eq_false_iff_not]
  exact Int.not_lt.2 (hbefore h (hlt h hmem))

/-! ## The checks in order -/

section Order

variable {s : State} (mode : RunMode)

theorem runInput_layers (h : s.layers.toInt < 1 ∨ 8 < s.layers.toInt) :
    runInput mode s = raise .cfgLayers (ctx 0) s.layers (ctx 8) := by
  rw [runInput, if_pos (by exact_mod_cast h)]

theorem runInput_variant (hlow : 1 ≤ s.layers.toInt) (hhigh : s.layers.toInt ≤ 8) {l : Nat} (hl : l < s.layers.toNat)
    (hbefore : ∀ k, k < l → s.actv.toNat / 4 ^ k % 4 ≤ 1) (hcode : 1 < s.actv.toNat / 4 ^ l % 4) :
    runInput mode s = raise .cfgVariant (ctx l) (ctx (s.actv.toNat / 4 ^ l % 4)) (ctx 1) := by
  have hlayers : ¬ (s.layers.toInt < 1 ∨ Config.lmax < s.layers.toInt) :=
    not_or.2 ⟨Int.not_lt.2 hlow, Int.not_lt.2 hhigh⟩
  rw [runInput, if_neg hlayers, find_variant_some hl hbefore hcode, ← layerVariant_eq]

theorem runInput_duration (hlow : 1 ≤ s.layers.toInt) (hhigh : s.layers.toInt ≤ 8)
    (hvariants : ∀ l, l < s.layers.toNat → s.actv.toNat / 4 ^ l % 4 ≤ 1) {g : Stage} (hneg : (s.dur.get g).toInt < 0)
    (hbefore : ∀ h, stageNumber h < stageNumber g → 0 ≤ (s.dur.get h).toInt) :
    runInput mode s = raise .cfgDuration (ctx (stageNumber g)) (s.dur.get g) 0x7FFFFFFF#32 := by
  have hlayers : ¬ (s.layers.toInt < 1 ∨ Config.lmax < s.layers.toInt) :=
    not_or.2 ⟨Int.not_lt.2 hlow, Int.not_lt.2 hhigh⟩
  rw [runInput, if_neg hlayers, find_variant_none hvariants, find_duration_some hneg hbefore]

theorem runInput_eq_runCounts (hlow : 1 ≤ s.layers.toInt) (hhigh : s.layers.toInt ≤ 8)
    (hvariants : ∀ l, l < s.layers.toNat → s.actv.toNat / 4 ^ l % 4 ≤ 1)
    (hdurations : ∀ g, 0 ≤ (s.dur.get g).toInt) : runInput mode s = runCounts mode s := by
  have hlayers : ¬ (s.layers.toInt < 1 ∨ Config.lmax < s.layers.toInt) :=
    not_or.2 ⟨Int.not_lt.2 hlow, Int.not_lt.2 hhigh⟩
  rw [runInput, if_neg hlayers, find_variant_none hvariants, find_duration_none hdurations]

theorem runCounts_chunks (h : s.chunks.toInt ≤ 0) :
    runCounts mode s = raise .cfgCount (ctx 0) s.chunks 0x7FFFFFFF#32 := if_pos h

theorem runCounts_images (hchunks : 0 < s.chunks.toInt) (h : s.images.toInt ≤ 0) :
    runCounts mode s = raise .cfgCount (ctx 1) s.images 0x7FFFFFFF#32 := by
  rw [runCounts, if_neg (Int.not_le.2 hchunks), if_pos h]

theorem runCounts_capacity (hchunks : 0 < s.chunks.toInt) (himages : 0 < s.images.toInt)
    (h : s.params.evmax < runEvents s) :
    runCounts mode s = raise .cfgCapacity (ctx 0) (sat32 (runEvents s)) (ctx s.params.evmax) := by
  rw [runCounts, if_neg (Int.not_le.2 hchunks), if_neg (Int.not_le.2 himages), if_pos h]

theorem runData_noArray (h : s.wvalid = false) : runData .data s = raise .noArray (ctx 0) (ctx 0) (ctx 0) := if_pos h

theorem runData_slots (hw : s.wvalid = true) (h : s.params.nslot < runSlots s) :
    runData .data s = raise .cfgCapacity (ctx 1) (ctx (runSlots s)) (ctx s.params.nslot) := by
  rw [runData, if_neg (by simp [hw]), if_pos h]

theorem runData_eq_readInputs (hw : s.wvalid = true) (h : runSlots s ≤ s.params.nslot) :
    runData .data s = readInputs s (runSlots s) := by
  rw [runData, if_neg (by simp [hw]), if_neg (Nat.not_lt.2 h)]

/-- A RUN whose checks raise an error leaves that error (R235). -/
theorem exec_run_of_raise {code : ErrorCode} {index value limit : Word}
    (h : runInput mode s = raise code index value limit) :
    exec (.run mode) s = .next (failed code index value limit s) := by
  rw [exec_run, execRun, h]
  exact finish_raise_eq_failed ..

end Order

/-- Settles O27: each check's lemma, in the order of R180. -/
theorem runConfigErrorOrder : Obligations.RunConfigErrorOrder := by
  intro s m
  refine ⟨fun h => exec_run_of_raise m (runInput_layers m h), fun hlow hhigh =>
    ⟨fun l hl hbefore hcode => exec_run_of_raise m (runInput_variant m hlow hhigh hl hbefore hcode), fun hvariants =>
      ⟨fun g hneg hbefore => exec_run_of_raise m (runInput_duration m hlow hhigh hvariants hneg hbefore),
        fun hdurations => ?_⟩⟩⟩
  have hcounts := runInput_eq_runCounts m hlow hhigh hvariants hdurations
  exact ⟨fun h => exec_run_of_raise m (hcounts.trans (runCounts_chunks m h)),
    fun hchunks h => exec_run_of_raise m (hcounts.trans (runCounts_images m hchunks h)),
    fun hchunks himages h => exec_run_of_raise m (hcounts.trans (runCounts_capacity m hchunks himages h))⟩

/-- Settles O28: what is left of the checks on a valid configuration is those on the data. -/
theorem runDataErrorOrder : Obligations.RunDataErrorOrder := by
  intro s hconfig
  have hrun := runInput_eq_runData hconfig .data
  refine ⟨fun hw => exec_run_of_raise .data (hrun.trans (runData_noArray hw)), fun hw => ⟨fun hslots =>
    exec_run_of_raise .data (hrun.trans (runData_slots hw hslots)), fun hslots n w hn hbefore hword hwide => ?_⟩⟩
  exact exec_run_of_raise .data
    ((hrun.trans (runData_eq_readInputs hw hslots)).trans (readOperands_of_wide hn hbefore hword hwide))

end Sys2Proof.Proofs
end

section
/-! Scheduler: the log is the run's occupations in submission order (42_scheduler.md R172, R177, R178). -/

namespace Sys2Proof.Proofs

open Sys2Proof.Machine Sys2Proof.Claims

/-! ## Lists of blocks -/

/-- Element j of block i, where every block has m elements. -/
theorem getElem?_flatMap_of_length {α β : Type} {f : α → List β} {m : Nat} (xs : List α)
    (h : ∀ x ∈ xs, (f x).length = m) (i : Nat) {j : Nat} (hj : j < m) :
    (xs.flatMap f)[i * m + j]? = xs[i]?.bind fun x => (f x)[j]? := by
  induction xs generalizing i with
  | nil => simp
  | cons x xs ih =>
    rw [List.forall_mem_cons] at h
    obtain ⟨hx, hxs⟩ := h
    cases i with
    | zero => rw [List.flatMap_cons, Nat.zero_mul, Nat.zero_add, List.getElem?_append_left (by omega)]; rfl
    | succ i =>
      have hi : (i + 1) * m + j = m + (i * m + j) := by rw [Nat.succ_mul]; omega
      rw [List.flatMap_cons, hi, List.getElem?_append_right (by omega), hx, Nat.add_sub_cancel_left, ih hxs,
        List.getElem?_cons_succ]

/-- The same where the blocks are numbered. -/
theorem getElem?_flatMap_range {β : Type} {f : Nat → List β} {m n i j : Nat} (h : ∀ x, (f x).length = m) (hi : i < n)
    (hj : j < m) : ((List.range n).flatMap f)[i * m + j]? = (f i)[j]? := by
  rw [getElem?_flatMap_of_length _ (fun x _ => h x) i hj, List.getElem?_range hi, Option.bind_some]

/-! ## Submission order -/

theorem map_job_serveAll (d : PerStage Nat) (js : List Job) (t : Timeline) :
    (serveAll d js t).map (fun e => e.event.job) = js := by
  induction js generalizing t with
  | nil => rfl
  | cons j js ih => rw [serveAll_cons, List.map_cons, ih, serve_job]

theorem map_job_schedule (d : PerStage Nat) (images chunks layers : Nat) :
    (schedule d images chunks layers).map (fun e => e.event.job) = runJobs images chunks layers := map_job_serveAll ..

theorem runJobs_getElem? {images chunks layers img n : Nat} (himg : img < images)
    (hn : n < chunks * (1 + 3 * layers) + 1) :
    (runJobs images chunks layers)[img * (chunks * (1 + 3 * layers) + 1) + n]? =
      (imageJobs chunks layers img)[n]? :=
  getElem?_flatMap_range (length_imageJobs chunks layers) himg hn

theorem imageJobs_getElem?_detect (chunks layers img : Nat) :
    (imageJobs chunks layers img)[chunks * (1 + 3 * layers)]? = some ⟨.detect, none, img, none⟩ := by
  rw [imageJobs, List.getElem?_append_right (by simp [List.length_flatMap, length_chunkJobs])]
  simp [List.length_flatMap, length_chunkJobs]

/-- The occupations of an image but its last stand before its end. -/
theorem chunk_index_lt {chunks layers k n : Nat} (hk : k < chunks) (hn : n < 1 + 3 * layers) :
    k * (1 + 3 * layers) + n < chunks * (1 + 3 * layers) := by
  have hle : (k + 1) * (1 + 3 * layers) ≤ chunks * (1 + 3 * layers) := Nat.mul_le_mul_right _ hk
  rw [Nat.succ_mul] at hle
  omega

theorem imageJobs_getElem?_chunk {chunks layers k n : Nat} (img : Nat) (hk : k < chunks) (hn : n < 1 + 3 * layers) :
    (imageJobs chunks layers img)[k * (1 + 3 * layers) + n]? = (chunkJobs layers img k)[n]? := by
  have hlt := chunk_index_lt hk hn
  rw [imageJobs, List.getElem?_append_left (by simpa [List.length_flatMap, length_chunkJobs] using hlt)]
  exact getElem?_flatMap_range (length_chunkJobs layers img) hk hn

/-- Occupation x of layer l stands after the fetch and the three occupations of each layer before. -/
theorem chunkJobs_getElem?_layer {layers l x : Nat} (img k : Nat) (hl : l < layers) (hx : x < 3) :
    (chunkJobs layers img k)[l * 3 + x + 1]? = (layerJobs img k l)[x]? := by
  rw [chunkJobs, List.getElem?_cons_succ]
  exact getElem?_flatMap_range (f := layerJobs img k) (fun _ => rfl) hl hx

/-- Settles O30: the occupations stand in blocks of equal length, images of chunks of layers. -/
theorem logIsInSubmissionOrder : Obligations.LogIsInSubmissionOrder := by
  intro d images chunks layers img jobs hjobs himg
  rw [map_job_schedule] at hjobs
  subst hjobs
  have hchunk : ∀ k x, k < chunks → x < 1 + 3 * layers →
      (runJobs images chunks layers)[img * (chunks * (1 + 3 * layers) + 1) + k * (1 + 3 * layers) + x]? =
        (chunkJobs layers img k)[x]? := by
    intro k x hk hx
    have hlt := chunk_index_lt hk hx
    rw [Nat.add_assoc, runJobs_getElem? himg (by omega), imageJobs_getElem?_chunk img hk hx]
  have hlayer : ∀ k l x, k < chunks → l < layers → x < 3 →
      (runJobs images chunks layers)[img * (chunks * (1 + 3 * layers) + 1) + k * (1 + 3 * layers) + 3 * l + (x + 1)]? =
        (layerJobs img k l)[x]? := by
    intro k l x hk hl hx
    rw [Nat.add_assoc _ (3 * l), hchunk k _ hk (by omega), ← chunkJobs_getElem?_layer img k hl hx]
    congr 1
    omega
  refine ⟨?_, fun k n hk hn => ?_⟩
  · rw [runJobs_getElem? himg (by omega), imageJobs_getElem?_detect]
  · subst hn
    refine ⟨hchunk k 0 hk (by omega), fun l hl => ⟨?_, ?_, ?_⟩⟩
    · exact hlayer k l 0 hk hl (by decide)
    · exact hlayer k l 1 hk hl (by decide)
    · exact hlayer k l 2 hk hl (by decide)

end Sys2Proof.Proofs
end

section
/-! Scheduler: every event follows the timing rule, as a timeline holds what the log so far says (42_scheduler.md R173
to R175). -/

namespace Sys2Proof.Proofs

open Sys2Proof.Machine Sys2Proof.Claims

/-- The end of the last of the events, 0 if there is none. -/
def lastStop (es : List Event) : Nat :=
  match es.getLast? with
  | some e => e.stop
  | none => 0

@[simp] theorem lastStop_concat (es : List Event) (e : Event) : lastStop (es ++ [e]) = e.stop := by
  rw [lastStop, List.getLast?_concat]

theorem freeBefore_concat (es : List Event) (e : Event) (g : Stage) :
    freeBefore (es ++ [e]) g = if e.job.stage = g then e.stop else freeBefore es g := by
  rw [freeBefore, List.filter_append]
  by_cases h : e.job.stage = g
  · simp [h]
  · simp [h, freeBefore]

theorem acceptBefore_concat (es : List Event) (e : Event) :
    acceptBefore (es ++ [e]) = if AcceptsChunk e.job then e.start else acceptBefore es := by
  rw [acceptBefore, List.filter_append]
  by_cases h : AcceptsChunk e.job
  · simp [if_pos h, (isAcceptance_iff e).2 h]
  · have hfalse : isAcceptance e = false := Bool.eq_false_iff.2 (mt (isAcceptance_iff e).1 h)
    simp [if_neg h, hfalse, acceptBefore]

/-- A timeline holds what the events so far say: FREE, ACCEPT and the end of the last event (R173 to R175). -/
structure Reflects (t : Timeline) (es : List Event) : Prop where
  free : ∀ g, t.free.get g = freeBefore es g
  accept : t.accept = acceptBefore es
  ready : t.ready = lastStop es

theorem startTimeline_reflects : Reflects startTimeline [] :=
  ⟨by intro g; cases g <;> rfl, rfl, rfl⟩

theorem Reflects.readyTime {t : Timeline} {es : List Event} (h : Reflects t es) (j : Job) :
    readyTime t j = readyBefore es j := by
  rw [readyBefore]
  by_cases hf : j.stage = .fetch
  · rw [if_pos hf, readyTime_of_fetch t hf, h.accept]
  · rw [if_neg hf, readyTime_of_not_fetch t hf, h.ready]
    rfl

/-- Serving an occupation keeps the timeline in step with the log. -/
theorem Reflects.serve {t : Timeline} {es : List Event} (h : Reflects t es) (d : PerStage Nat) (j : Job) :
    Reflects (serve d t j).after (es ++ [(serve d t j).event]) where
  free g := by
    rw [serve_after_free, freeBefore_concat, serve_job]
    by_cases hg : j.stage = g
    · rw [if_pos hg, hg, PerStage.get_set_same]
    · rw [if_neg hg, PerStage.get_set_other _ _ (Ne.symm hg), h.free]
  accept := by
    rw [acceptBefore_concat, serve_job]
    by_cases hc : AcceptsChunk j
    · rw [if_pos hc, serve_after_accept_of_acceptsChunk d t hc]
    · rw [if_neg hc, serve_after_accept_of_not d t hc, h.accept]
  ready := by rw [serve_after_ready, lastStop_concat]

/-- The timing rule for the events served after `es`. -/
theorem Reflects.timingRule {d : PerStage Nat} {js : List Job} {t : Timeline} {es before after : List Event} {e : Event}
    (ht : Reflects t es) (h : eventsOf d js t = before ++ e :: after) :
    e.start = max (freeBefore (es ++ before) e.job.stage) (readyBefore (es ++ before) e.job) := by
  induction js generalizing t es before with
  | nil => simp at h
  | cons j js ih =>
    rw [eventsOf_cons] at h
    cases before with
    | nil =>
      obtain ⟨rfl, -⟩ := List.cons.inj h
      rw [List.append_nil, serve_start, ht.readyTime, ht.free, serve_job]
    | cons x before =>
      obtain ⟨rfl, hrest⟩ := List.cons.inj h
      have hrule := ih (ht.serve d j) hrest
      rwa [List.append_assoc] at hrule

/-- Settles O31: the timeline at each event is what the log before it says. -/
theorem everyEventFollowsTimingRule : Obligations.EveryEventFollowsTimingRule := by
  intro d images chunks layers before after e h
  have hmem : e ∈ eventsOf d (runJobs images chunks layers) startTimeline := by
    rw [show eventsOf d (runJobs images chunks layers) startTimeline = before ++ e :: after from h]
    simp
  exact ⟨startTimeline_reflects.timingRule h, stop_eq_start_add hmem⟩

end Sys2Proof.Proofs
end

section
/-! Scheduler: occupations of a stage never overlap, and the one-slot buffer never holds two chunks (42_scheduler.md
R186, R187). -/

namespace Sys2Proof.Proofs

open Sys2Proof.Machine Sys2Proof.Claims

theorem pairwise_getElem? {α : Type} {R : α → α → Prop} {xs : List α} (h : xs.Pairwise R) {i j : Nat} {a b : α}
    (hij : i < j) (ha : xs[i]? = some a) (hb : xs[j]? = some b) : R a b := by
  obtain ⟨hi, rfl⟩ := List.getElem?_eq_some_iff.1 ha
  obtain ⟨hj, rfl⟩ := List.getElem?_eq_some_iff.1 hb
  exact List.pairwise_iff_getElem.1 h i j hi hj hij

/-! ## Stages -/

/-- FREE never decreases (R186). -/
theorem serve_free_mono (d : PerStage Nat) (t : Timeline) (j : Job) (g : Stage) :
    t.free.get g ≤ (serve d t j).after.free.get g := by
  rw [serve_after_free]
  by_cases hg : g = j.stage
  · rw [hg, PerStage.get_set_same, serve_stop, serve_start]
    omega
  · rw [PerStage.get_set_other _ _ hg]

/-- An event starts when its stage is free, or later. -/
theorem free_le_start {d : PerStage Nat} {js : List Job} {t : Timeline} {e : Event} (h : e ∈ eventsOf d js t) :
    t.free.get e.job.stage ≤ e.start := by
  induction js generalizing t with
  | nil => cases h
  | cons j js ih =>
    rw [eventsOf_cons, List.mem_cons] at h
    obtain rfl | h := h
    · exact le_max_left ..
    · exact (serve_free_mono d t j _).trans (ih h)

/-- Of two occupations of one stage the earlier in the log ends before the other starts (R171). -/
theorem eventsOf_pairwise_stage (d : PerStage Nat) (js : List Job) (t : Timeline) :
    (eventsOf d js t).Pairwise fun e f => e.job.stage = f.job.stage → e.stop ≤ f.start := by
  induction js generalizing t with
  | nil => exact .nil
  | cons j js ih =>
    refine List.pairwise_cons.2 ⟨fun f hf hstage => ?_, ih _⟩
    have hle := free_le_start hf
    rwa [← hstage, serve_job, serve_after_free, PerStage.get_set_same] at hle

/-- An event that is no fetch starts at the end of the event before it, or later (R173, R178). -/
theorem stop_le_next_start {d : PerStage Nat} {js : List Job} {t : Timeline} {i : Nat} {e f : Event}
    (he : (eventsOf d js t)[i]? = some e) (hf : (eventsOf d js t)[i + 1]? = some f) (hstage : f.job.stage ≠ .fetch) :
    e.stop ≤ f.start := by
  induction js generalizing t i with
  | nil => cases he
  | cons j js ih =>
    rw [eventsOf_cons, List.getElem?_cons_succ] at hf
    cases i with
    | succ i => exact ih he hf
    | zero =>
      cases he
      cases js with
      | nil => cases hf
      | cons k js =>
        cases hf
        rw [serve_job] at hstage
        rw [serve_start, readyTime_of_not_fetch _ hstage, serve_after_ready]
        exact le_max_right ..

theorem start_le_stop {d : PerStage Nat} {js : List Job} {t : Timeline} {e : Event} (h : e ∈ eventsOf d js t) :
    e.start ≤ e.stop := by
  rw [stop_eq_start_add h]
  exact Nat.le_add_right ..

/-- Settles O32: FREE of a stage is the end of its last occupation, and `ready` that of the last event. -/
theorem occupationsNeverOverlap : Obligations.OccupationsNeverOverlap := by
  intro d images chunks layers es hes
  subst hes
  refine ⟨fun i j ei ej hij hi hj hstage => ?_, fun i ei ej hi hj hstage => stop_le_next_start hi hj hstage⟩
  have hstop : ei.stop ≤ ej.start := pairwise_getElem? (eventsOf_pairwise_stage d _ _) hij hi hj hstage
  exact ⟨(start_le_stop (List.mem_of_getElem? hi)).trans hstop, hstop⟩

/-! ## The buffer -/

theorem serve_occ_of_fetch (d : PerStage Nat) (t : Timeline) {j : Job} (h : j.stage = .fetch) :
    (serve d t j).after.occ = t.occ + 1 := by
  rw [serve]
  simp only [bookBuffer, h]

theorem serve_occ_of_acceptsChunk (d : PerStage Nat) (t : Timeline) {j : Job} (h : AcceptsChunk j) :
    (serve d t j).after.occ = t.occ - 1 := by
  obtain ⟨hstage, hlayer⟩ := h
  rw [serve]
  simp only [bookBuffer, hstage, hlayer]

theorem serve_occ_of_other (d : PerStage Nat) (t : Timeline) {j : Job} (hf : j.stage ≠ .fetch)
    (hc : ¬ AcceptsChunk j) : (serve d t j).after.occ = t.occ := by
  rw [serve]
  unfold bookBuffer
  split
  case h_1 hstage => exact absurd hstage hf
  case h_2 hstage hlayer => exact absurd ⟨hstage, hlayer⟩ hc
  case h_3 => rfl

/-- What R187 says of OCC after one emission. -/
def BufferBound (e : Emission) : Prop :=
  e.after.occ ≤ 1 ∧ (e.event.job.stage = .fetch → e.after.occ = 1) ∧ (isAcceptance e.event = true → e.after.occ = 0)

/-- From an empty buffer on, each fetch fills it and its chunk's acceptance, which follows at once, empties it. -/
theorem AcceptedAfterFetch.bufferBound {n : Nat} {js : List Job} (h : AcceptedAfterFetch n js) (d : PerStage Nat)
    {t : Timeline} (ht : t.occ = 0) : ∀ e ∈ serveAll d js t, BufferBound e := by
  induction h generalizing t with
  | nil => intro e he; cases he
  | @chunk n f c js hf hc _ ih =>
    have hfetched : (Machine.serve d t f).after.occ = 1 := by rw [serve_occ_of_fetch d t hf, ht]
    have haccepted : (Machine.serve d (Machine.serve d t f).after c).after.occ = 0 := by
      rw [serve_occ_of_acceptsChunk d _ hc, hfetched]
    rw [serveAll_cons, serveAll_cons, List.forall_mem_cons, List.forall_mem_cons]
    refine ⟨⟨hfetched.le, fun _ => hfetched, fun ha => ?_⟩, ⟨haccepted.le.trans (Nat.zero_le 1), fun hs => ?_,
      fun _ => haccepted⟩, ih haccepted⟩
    · have hstage := ((isAcceptance_iff _).1 ha).1
      rw [serve_job, hf] at hstage
      cases hstage
    · rw [serve_job, hc.1] at hs
      cases hs
  | @other n j js hf hc _ ih =>
    have hocc : (Machine.serve d t j).after.occ = 0 := by rw [serve_occ_of_other d t hf hc, ht]
    rw [serveAll_cons, List.forall_mem_cons]
    exact ⟨⟨hocc.le.trans (Nat.zero_le 1), fun hs => absurd hs hf, fun _ => hocc⟩, ih hocc⟩

theorem schedule_bufferBound (d : PerStage Nat) (images chunks : Nat) {layers : Nat} (h : 1 ≤ layers) :
    ∀ e ∈ schedule d images chunks layers, BufferBound e := by
  obtain ⟨l, rfl⟩ := Nat.exists_eq_add_of_le' h
  exact (runJobs_acceptedAfterFetch images chunks l).bufferBound d rfl

/-! ## Fetches after acceptances -/

/-- ACCEPT is the start of an occupation of S1 that is over when FREE[1] says so. -/
def AcceptFreed (t : Timeline) : Prop := t.accept ≤ t.free.get .compute

theorem AcceptFreed.serve {t : Timeline} (h : AcceptFreed t) (d : PerStage Nat) (j : Job) :
    AcceptFreed (serve d t j).after := by
  rw [AcceptFreed]
  by_cases hc : AcceptsChunk j
  · rw [serve_after_accept_of_acceptsChunk d t hc, serve_after_free, ← hc.1, PerStage.get_set_same, serve_stop]
    exact Nat.le_add_right ..
  · rw [serve_after_accept_of_not d t hc]
    exact h.trans (serve_free_mono d t j .compute)

/-- ACCEPT never decreases. -/
theorem AcceptFreed.accept_mono {t : Timeline} (h : AcceptFreed t) (d : PerStage Nat) (j : Job) :
    t.accept ≤ (Machine.serve d t j).after.accept := by
  by_cases hc : AcceptsChunk j
  · rw [serve_after_accept_of_acceptsChunk d t hc, serve_start, hc.1]
    exact h.trans (le_max_left ..)
  · rw [serve_after_accept_of_not d t hc]

theorem AcceptFreed.accept_le_start {d : PerStage Nat} {js : List Job} {t : Timeline} {e : Event} (ht : AcceptFreed t)
    (h : e ∈ eventsOf d js t) (hf : e.job.stage = .fetch) : t.accept ≤ e.start := by
  induction js generalizing t with
  | nil => cases h
  | cons j js ih =>
    rw [eventsOf_cons, List.mem_cons] at h
    obtain rfl | h := h
    · rw [serve_job] at hf
      rw [serve_start, readyTime_of_fetch t hf]
      exact le_max_right ..
    · exact (ht.accept_mono d j).trans (ih (ht.serve d j) h)

/-- A fetch starts no earlier than any acceptance before it in the log (R187). -/
theorem AcceptFreed.pairwise {t : Timeline} (ht : AcceptFreed t) (d : PerStage Nat) (js : List Job) :
    (eventsOf d js t).Pairwise fun e f => isAcceptance e = true → f.job.stage = .fetch → e.start ≤ f.start := by
  induction js generalizing t with
  | nil => exact .nil
  | cons j js ih =>
    refine List.pairwise_cons.2 ⟨fun f hf ha hstage => ?_, ih (ht.serve d j)⟩
    have hle := (ht.serve d j).accept_le_start hf hstage
    rw [isAcceptance_iff, serve_job] at ha
    rwa [serve_after_accept_of_acceptsChunk d t ha] at hle

/-- Settles O33: a fetch and its acceptance alternate, and ACCEPT, which bounds each fetch, never decreases. -/
theorem bufferNeverExceedsOneSlot : Obligations.BufferNeverExceedsOneSlot := by
  intro d images chunks layers hlayers
  have hstart : AcceptFreed startTimeline := Nat.le_refl 0
  exact ⟨schedule_bufferBound d images chunks hlayers, fun i j ei ej hij hi hj hacc hfetch =>
    pairwise_getElem? (hstart.pairwise d _) hij hi hj hacc hfetch⟩

end Sys2Proof.Proofs
end

section
/-! RUN: what a run writes to the log and, in data mode, to the output slots (42_scheduler.md R182 to R185; 10_state.md
R53). -/

namespace Sys2Proof.Proofs

open Sys2Proof.Machine Sys2Proof.Claims

/-! ## Records -/

theorem layer_lt_of_mem_runJobs {images chunks layers l : Nat} {j : Job} (h : j ∈ runJobs images chunks layers)
    (hl : j.layer = some l) : l < layers := by
  have hlayer : ∀ {img k m : Nat}, j ∈ layerJobs img k m → l = m := by
    intro img k m hm
    simp only [layerJobs, List.mem_cons, List.not_mem_nil, or_false] at hm
    obtain rfl | rfl | rfl := hm <;> exact (Option.some.inj hl).symm
  simp only [runJobs, imageJobs, chunkJobs, List.mem_flatMap, List.mem_append, List.mem_cons, List.mem_range,
    List.not_mem_nil, or_false] at h
  obtain ⟨img, -, ⟨k, -, rfl | ⟨m, hm, hj⟩⟩ | rfl⟩ := h
  · cases hl
  · rwa [hlayer hj]
  · cases hl

/-- The first word of a record holds STAGE in bits 3:0 and LAYER in bits 7:4 (R53). -/
theorem stageWord_eq (l : BitVec 4) (g : Stage) :
    0#24 ++ l ++ BitVec.ofNat 4 (stageNumber g) = BitVec.ofNat 32 (16 * l.toNat + stageNumber g) := by
  have hg : stageNumber g < 16 := by cases g <;> decide
  apply BitVec.eq_of_toNat_eq
  simp only [toNat_append_eq_add, BitVec.toNat_ofNat]
  omega

theorem layerField_toNat {j : Job} (h : ∀ l, j.layer = some l → l < 16) :
    (layerField j).toNat = match j.layer with | some l => l | none => 15 := by
  rw [layerField]
  cases hl : j.layer with
  | none => rfl
  | some l =>
    have hlt := h l hl
    rw [BitVec.toNat_ofNat, Nat.mod_eq_of_lt hlt]

theorem dwordWords_ofNat (n : Nat) :
    dwordWords (BitVec.ofNat 64 n) = [BitVec.ofNat 32 (n % 2 ^ 32), BitVec.ofNat 32 (n / 2 ^ 32)] := by
  have hlow : (BitVec.ofNat 64 n).extractLsb' 0 32 = BitVec.ofNat 32 (n % 2 ^ 32) := by
    apply BitVec.eq_of_toNat_eq
    simp only [BitVec.extractLsb'_toNat, BitVec.toNat_ofNat, Nat.shiftRight_eq_div_pow]
    omega
  have hhigh : (BitVec.ofNat 64 n).extractLsb' 32 32 = BitVec.ofNat 32 (n / 2 ^ 32) := by
    apply BitVec.eq_of_toNat_eq
    simp only [BitVec.extractLsb'_toNat, BitVec.toNat_ofNat, Nat.shiftRight_eq_div_pow]
    omega
  rw [dwordWords, hlow, hhigh]

/-- A record's words are those of R53, where the layer fits its field. -/
theorem recordWords_getElem? {e : Event} (h : ∀ l, e.job.layer = some l → l < 16) {k : Nat} (hk : k < 8) :
    (recordWords e)[k]? = some (recordWord e k) := by
  rw [recordWords, stageWord_eq, layerField_toNat h, dwordWords_ofNat, dwordWords_ofNat]
  match k, hk with
  | 0, _ => rfl
  | 1, _ => rfl
  | 2, _ => rfl
  | 3, _ => rfl
  | 4, _ => rfl
  | 5, _ => rfl
  | 6, _ => rfl
  | 7, _ => rfl

theorem logWords_getElem? (es : List Emission) (n : Nat) {k : Nat} (hk : k < 8) :
    (logWords es)[8 * n + k]? = es[n]?.bind fun e => (recordWords e.event)[k]? := by
  rw [Nat.mul_comm]
  exact getElem?_flatMap_of_length (f := fun e : Emission => recordWords e.event) es (fun _ _ => rfl) n hk

/-! ## The log of a valid configuration -/

theorem toNat_of_toInt_nonneg {w : Word} (h : 0 ≤ w.toInt) : (w.toNat : Int) = w.toInt := by
  rw [BitVec.toInt_eq_toNat_cond] at h ⊢
  split at h <;> split <;> omega

theorem ValidConfig.layers_toNat {s : State} (h : ValidConfig s) : 1 ≤ s.layers.toNat ∧ s.layers.toNat ≤ 8 := by
  obtain ⟨hlow, hhigh⟩ := h.layers
  have heq := toNat_of_toInt_nonneg (w := s.layers) (by omega)
  omega

theorem layer_lt_of_mem_log {s : State} (h : ValidConfig s) {e : Event} (he : e ∈ log s) {l : Nat}
    (hl : e.job.layer = some l) : l < 16 := by
  obtain ⟨x, hx, rfl⟩ := List.mem_map.1 he
  have hjob : x.event.job ∈ runJobs s.images.toNat s.chunks.toNat s.layers.toNat := by
    rw [← map_job_schedule (durations s)]
    exact List.mem_map.2 ⟨x, hx, rfl⟩
  have hlt := layer_lt_of_mem_runJobs hjob hl
  have hlayers := (ValidConfig.layers_toNat h).2
  omega

/-- The schedule's writes put every record where R67 says. -/
theorem commitSchedule_holdsLog {s : State} (h : ValidConfig s) : HoldsLog (commitSchedule s).mem (log s) := by
  intro n e he k hk
  have hlayer : ∀ l, e.job.layer = some l → l < 16 := fun l hl => layer_lt_of_mem_log h (List.mem_of_getElem? he) hl
  rw [log, List.getElem?_map, Option.map_eq_some_iff] at he
  obtain ⟨x, hx, rfl⟩ := he
  obtain ⟨hn, -⟩ := List.getElem?_eq_some_iff.1 hx
  have hword := readWord_commitSchedule_evlogAddr s hn hk
  rwa [logWords_getElem? _ _ hk, hx, Option.bind_some, recordWords_getElem? hlayer hk] at hword

theorem length_runSchedule (s : State) :
    (runSchedule s).length = s.images.toNat * (s.chunks.toNat * (1 + 3 * s.layers.toNat) + 1) := by
  rw [runSchedule, eventCountFormula]

theorem readByte_commitSchedule_apart (s : State) {a : Nat}
    (h : a < 0x05000000 ∨ 0x05000000 + 32 * (runSchedule s).length ≤ a) :
    Memory.readByte (commitSchedule s).mem a = Memory.readByte s.mem a := by
  rw [commitSchedule_mem, Memory.readByte_writeWords_apart]
  rw [length_logWords, Config.evlogBase]
  omega

theorem exec_run_timing {s : State} (h : ValidConfig s) :
    exec (.run .timing) s = .next (succeed (commitSchedule s)) := by
  rw [exec_run, execRun, runInput_eq_runData h]
  rfl

/-- Settles O25: the schedule's writes are the log, EVCOUNT and the scheduler's state. -/
theorem runTimingWritesLog : Obligations.RunTimingWritesLog := by
  intro s hlegal hconfig
  have hcount : (succeed (commitSchedule s)).evcount.toNat = (runSchedule s).length :=
    ctx_length_runSchedule hlegal hconfig
  refine ⟨_, exec_run_timing hconfig, rfl, hcount.trans (length_runSchedule s), ?_, commitSchedule_holdsLog hconfig,
    fun a ha => ?_⟩
  · rw [hcount, log, List.length_map]
  · rw [hcount] at ha
    exact readByte_commitSchedule_apart s ha

/-! ## The inputs of a data run -/

theorem getElem?_flatten_of_length {α : Type} {m : Nat} {xss : List (List α)} (h : ∀ xs ∈ xss, xs.length = m) (i : Nat)
    {j : Nat} (hj : j < m) : xss.flatten[i * m + j]? = xss[i]?.bind fun xs => xs[j]? := by
  rw [← List.flatMap_id]
  exact getElem?_flatMap_of_length xss h i hj

theorem length_flatten_of_length {α : Type} {m : Nat} {xss : List (List α)} (h : ∀ xs ∈ xss, xs.length = m) :
    xss.flatten.length = xss.length * m := by
  rw [List.length_flatten, List.map_congr_left h, List.map_const', List.sum_replicate, smul_eq_mul]

/-- The input vectors of the slots, one after the other, are what a data run reads (R180). -/
theorem readInputs_of_holdsInput {s : State} {inp : List (List Operand)}
    (h : ∀ q (hq : q < inp.length), HoldsInput s q inp[q]) : readInputs s inp.length = .ok inp.flatten := by
  have hlen : ∀ xs ∈ inp, xs.length = s.params.rows := by
    intro xs hxs
    obtain ⟨q, hq, rfl⟩ := List.mem_iff_getElem.1 hxs
    exact (h q hq).1
  refine readOperands_of_holdsOperand (length_flatten_of_length hlen) fun n hn => ?_
  have hn' : n < inp.length * s.params.rows := by rwa [← length_flatten_of_length hlen]
  have hrows : 0 < s.params.rows := Nat.pos_of_lt_mul_left hn'
  have hq : n / s.params.rows < inp.length := Nat.div_lt_of_lt_mul (by rwa [Nat.mul_comm])
  have hr : n % s.params.rows < s.params.rows := Nat.mod_lt _ hrows
  have hsplit : n / s.params.rows * s.params.rows + n % s.params.rows = n := Nat.div_add_mod' ..
  obtain ⟨hslot, hcells⟩ := h _ hq
  have hcell := hcells _ (by rwa [hslot])
  have helem := getElem?_flatten_of_length hlen (n / s.params.rows) hr
  rw [hsplit, List.getElem?_eq_getElem hq, Option.bind_some, List.getElem?_eq_getElem hn,
    List.getElem?_eq_getElem (by rwa [hslot]), Option.some.injEq] at helem
  rw [hsplit] at hcell
  rw [helem]
  exact hcell

/-- The operands of slot q are its input vector. -/
theorem slotOperands_flatten {s : State} {inp : List (List Operand)} (hlen : ∀ xs ∈ inp, xs.length = s.params.rows)
    {q : Nat} (hq : q < inp.length) : slotOperands s inp.flatten q = inp[q] := by
  have hrow : inp[q].length = s.params.rows := hlen _ (List.getElem_mem hq)
  apply List.ext_getElem?
  intro r
  rw [slotOperands, List.getElem?_take]
  by_cases hr : r < s.params.rows
  · rw [if_pos hr, List.getElem?_drop, getElem?_flatten_of_length hlen q hr, List.getElem?_eq_getElem hq,
      Option.bind_some]
  · rw [if_neg hr, List.getElem?_eq_none (by omega)]

/-! ## The outputs of a data run -/

theorem activateLayer_of_nonneg (s : State) (l : Nat) {x : Dword} (h : 0 ≤ x.toInt) : activateLayer s l x = x := by
  rw [activateLayer]
  split
  · exact activate_of_nonneg _ h
  · rfl

theorem dword_ofNat_nonneg {n : Nat} (h : n < 2 ^ 47) : 0 ≤ (BitVec.ofNat 64 n).toInt := by
  rw [BitVec.toInt_eq_toNat_cond, BitVec.toNat_ofNat]
  split <;> omega

/-- A slot takes the exact sums of its input vector, which no activation changes (R153, R183). -/
theorem slotOutputs_getElem? {s : State} (hlegal : s.params.legal) (hcoherent : s.ArrayCoherent) {xs : List Operand}
    {q c : Nat} (hlen : (slotOperands s xs q).length ≤ s.params.rows) (hc : c < s.params.cols) :
    (slotOutputs s xs q)[c]? = some (BitVec.ofNat 64 (dot s c (slotOperands s xs q))) := by
  rw [slotOutputs, List.getElem?_map, outputs_mac_getElem? hlegal hcoherent hlen hc, Option.map_some,
    activateLayer_of_nonneg _ _ (dword_ofNat_nonneg (dot_lt hlegal c hlen))]

/-- Element c of OBUF slot q is element c of what the run makes of slot q. -/
theorem readDword_commitData (s : State) (xs : List Operand) {q c : Nat} (hq : q < runSlots s)
    (hc : c < s.params.cols) :
    Memory.readDword (commitData xs s).mem (obufAddr s.params q c) = (slotOutputs s xs q)[c]? := by
  have hlt : q * s.params.cols + c < (runOutputs s xs).length := by
    have hle : (q + 1) * s.params.cols ≤ runSlots s * s.params.cols := Nat.mul_le_mul_right _ hq
    rw [Nat.succ_mul] at hle
    rw [length_runOutputs]
    omega
  rw [commitData_mem, obufAddr, Memory.readDword_writeDwords _ _ _ hlt, runOutputs,
    getElem?_flatMap_range (length_slotOutputs s xs) hq hc]

theorem readByte_commitData_apart (s : State) (xs : List Operand) {a : Nat}
    (h : a < 0x04000000 ∨ 0x04000000 + 8 * (runSlots s * s.params.cols) ≤ a) :
    Memory.readByte (commitData xs s).mem a = Memory.readByte s.mem a := by
  rw [commitData_mem, Memory.readByte_writeDwords_apart]
  rwa [length_runOutputs]

theorem exec_run_data {s : State} {xs : List Operand} (h : ValidConfig s) (hw : s.wvalid = true)
    (hslots : runSlots s ≤ s.params.nslot) (hread : readInputs s (runSlots s) = .ok xs) :
    exec (.run .data) s = .next (succeed (commitData xs (commitSchedule s))) := by
  rw [exec_run, execRun, runInput_eq_runData h, runData_eq_readInputs hw hslots, hread]
  rfl

/-- Settles O26: the slots are apart from the log, and each takes the sums of its own input vector. -/
theorem runDataWritesOutputs : Obligations.RunDataWritesOutputs := by
  intro s inp hlegal hconfig hcoherent hw hcount hslots hinp
  have hrunSlots : runSlots s = inp.length := hcount.symm
  have hlen : ∀ xs ∈ inp, xs.length = s.params.rows := by
    intro xs hxs
    obtain ⟨q, hq, rfl⟩ := List.mem_iff_getElem.1 hxs
    exact (hinp q hq).1
  have hread : readInputs s (runSlots s) = .ok inp.flatten := by rw [hrunSlots, readInputs_of_holdsInput hinp]
  have hcoherent' : (commitSchedule s).ArrayCoherent := ⟨hcoherent.nibbles, hcoherent.loaded⟩
  have hevents : (succeed (commitData inp.flatten (commitSchedule s))).evcount.toNat = (runSchedule s).length :=
    ctx_length_runSchedule hlegal hconfig
  have hoperands : ∀ q (hq : q < inp.length), slotOperands (commitSchedule s) inp.flatten q = inp[q] := fun q hq =>
    slotOperands_flatten (s := commitSchedule s) hlen hq
  refine ⟨_, exec_run_data hconfig hw (hrunSlots.trans_le hslots) hread, rfl, hevents.trans (length_runSchedule s),
    fun n e he k hk => ?_, fun q hq c hc => ⟨?_, fun hlast => ?_⟩, fun a ha => ?_⟩
  · have hend : Config.obufBase + 8 * (runOutputs (commitSchedule s) inp.flatten).length ≤ Config.evlogBase :=
      outputs_below_evlog (s := commitSchedule s) hlegal (hrunSlots.trans_le hslots) inp.flatten
    rw [succeed_mem, commitData_mem, Memory.readWord_writeDwords_apart _ _ _ (.inr (hend.trans _))]
    · exact commitSchedule_holdsLog hconfig n e he k hk
    · rw [Config.evlogBase]
      omega
  · have hq' : q < runSlots (commitSchedule s) := hq.trans_eq hcount
    have hrow : (slotOperands (commitSchedule s) inp.flatten q).length ≤ (commitSchedule s).params.rows := by
      rw [hoperands q hq]
      exact (hinp q hq).1.le
    have hvalue := readDword_commitData (commitSchedule s) inp.flatten hq' hc
    rw [slotOutputs_getElem? (s := commitSchedule s) hlegal hcoherent' hrow hc, hoperands q hq] at hvalue
    exact hvalue
  · have hq' : runSlots (commitSchedule s) - 1 = q := by
      rw [show runSlots (commitSchedule s) = inp.length from hrunSlots]
      omega
    rw [succeed_acc, commitData_acc, hq', mac_getElem? hcoherent' _ hc, hoperands q hq]
    rfl
  · rw [hevents] at ha
    have hobuf : a < 0x04000000 ∨
        0x04000000 + 8 * (runSlots (commitSchedule s) * (commitSchedule s).params.cols) ≤ a := by
      rw [show runSlots (commitSchedule s) = inp.length from hrunSlots, commitSchedule_params]
      obtain ⟨-, ⟨-, hcols⟩, ⟨-, hnslot⟩, -⟩ := hlegal
      have hle : inp.length * s.params.cols ≤ 256 * 2048 := Nat.mul_le_mul (hslots.trans hnslot) hcols
      omega
    have hlog : a < 0x05000000 ∨ 0x05000000 + 32 * (runSchedule s).length ≤ a := by omega
    rw [succeed_mem, readByte_commitData_apart _ _ hobuf, readByte_commitSchedule_apart s hlog]

end Sys2Proof.Proofs
end

section
/-! Commands: what each command's checks can answer, so that a command commits, fails or stops at an unwritten word
(60_exceptions.md R234, R235; 00_scope.md R15). -/

namespace Sys2Proof.Proofs

open Sys2Proof.Machine Sys2Proof.Claims

/-! ## Raised errors -/

/-- The checks raise an error, and not E_NONE (R231). -/
def Raises {α : Type} (r : Except Stop α) : Prop :=
  ∃ code index value limit, code ≠ .none ∧ r = raise code index value limit

theorem raises_raise {α : Type} {code : ErrorCode} (h : code ≠ .none) (index value limit : Word) :
    Raises (raise code index value limit : Except Stop α) := ⟨code, index, value, limit, h, rfl⟩

/-- The command fails: error entry is all it does (R235, R236). -/
def FailsTo (s t : State) : Prop :=
  ∃ code index value limit, code ≠ .none ∧ t = failed code index value limit s

theorem Raises.finish_map {α : Type} {r : Except Stop α} (h : Raises r) (s : State) (f : α → State) :
    ∃ t, finish s (r.map f) = .next t ∧ FailsTo s t := by
  obtain ⟨code, index, value, limit, hcode, rfl⟩ := h
  exact ⟨_, finish_raise_eq_failed s code index value limit f, code, index, value, limit, hcode, rfl⟩

theorem Raises.ne_uninit {α : Type} {r : Except Stop α} (h : Raises r) (off : Nat) : r ≠ .error (.uninit off) := by
  obtain ⟨code, index, value, limit, -, rfl⟩ := h
  intro hraise
  cases hraise

theorem finish_map_fault_iff {α : Type} (s : State) (r : Except Stop α) (f : α → State) (off : Nat) :
    finish s (r.map f) = .fault (.uninitRead off) ↔ r = .error (.uninit off) := by
  match r with
  | .ok x => exact ⟨(nomatch ·), (nomatch ·)⟩
  | .error (.command e) => exact ⟨(nomatch ·), (nomatch ·)⟩
  | .error (.uninit o) => simp [Except.map]

/-! ## The checks -/

/-- Reading operands gives them all, raises E_RANGE or stops at an unwritten word. -/
theorem readOperands_cases (m : Memory) (base n : Nat) :
    (∃ xs, readOperands m base n 0 = .ok xs ∧ xs.length = n) ∨ Raises (readOperands m base n 0) ∨
      ∃ off, readOperands m base n 0 = .error (.uninit off) := by
  cases h : readOperands m base n 0 with
  | ok xs => exact .inl ⟨xs, rfl, ((readOperands_eq_ok ..).1 h).1⟩
  | error e =>
    obtain ⟨j, -, -, ⟨-, rfl⟩ | ⟨w, -, -, rfl⟩⟩ := readOperands_eq_error h
    · exact .inr (.inr ⟨_, rfl⟩)
    · exact .inr (.inl (raises_raise (by decide) ..))

theorem readDwords_cases (m : Memory) (a n : Nat) :
    (∃ ds, readDwords m a n = .ok ds ∧ ds.length = n) ∨ ∃ off, readDwords m a n = .error (.uninit off) := by
  cases h : readDwords m a n with
  | ok ds => exact .inl ⟨ds, rfl, ((readDwords_eq_ok ..).1 h).1⟩
  | error e =>
    obtain ⟨j, -, rfl, -⟩ := (readDwords_eq_error ..).1 h
    exact .inr ⟨_, rfl⟩

theorem loadWeights_cases (rows cols : Nat) (s : State) :
    (rows = s.params.rows ∧ cols = s.params.cols ∧ loadWeights rows cols s = readWeights s) ∨
      Raises (loadWeights rows cols s) := by
  rw [loadWeights]
  split
  case isTrue => exact .inr (raises_raise (by decide) ..)
  case isFalse hrows =>
    split
    case isTrue => exact .inr (raises_raise (by decide) ..)
    case isFalse hcols => exact .inl ⟨not_not.1 hrows, not_not.1 hcols, rfl⟩

theorem computeInput_cases (len islot oslot : Nat) (s : State) :
    (s.wvalid = true ∧ len = s.params.rows ∧ islot < s.params.nslot ∧ oslot < s.params.nslot ∧
        computeInput len islot oslot s = readInput s islot) ∨
      Raises (computeInput len islot oslot s) := by
  rw [computeInput]
  split
  case isTrue => exact .inr (raises_raise (by decide) ..)
  case isFalse hw =>
    split
    case isTrue => exact .inr (raises_raise (by decide) ..)
    case isFalse hlen =>
      split
      case isTrue => exact .inr (raises_raise (by decide) ..)
      case isFalse hi =>
        split
        case isTrue => exact .inr (raises_raise (by decide) ..)
        case isFalse ho =>
          exact .inl ⟨Bool.not_eq_false _ ▸ hw, not_not.1 hlen, Nat.not_le.1 hi, Nat.not_le.1 ho, rfl⟩

theorem actValues_cases (var oslot : Nat) (s : State) :
    (var ≤ 1 ∧ oslot < s.params.nslot ∧
        ∃ v, actValues var oslot s = (readOutput s oslot).map fun ds => ds.map (activate v)) ∨
      Raises (actValues var oslot s) := by
  by_cases hvar : var ≤ 1
  · obtain ⟨v, hv⟩ := variantOf_of_le hvar
    by_cases ho : oslot < s.params.nslot
    · exact .inl ⟨hvar, ho, v, actValues_of_checks hv ho⟩
    · rw [actValues, hv]
      simp only [if_pos (Nat.not_lt.1 ho)]
      exact .inr (raises_raise (by decide) ..)
  · rw [actValues, variantOf_of_ge (Nat.not_le.1 hvar)]
    exact .inr (raises_raise (by decide) ..)

theorem decompValue_cases (x : Word) : (∃ n, decompValue x = .ok n) ∨ Raises (decompValue x) := by
  rw [decompValue]
  split
  case isTrue => exact .inl ⟨_, rfl⟩
  case isFalse => exact .inr (raises_raise (by decide) ..)

/-- REASM's result is an operand (R124). -/
theorem reasmValue_cases (n : Word) : (∃ v, reasmValue n = .ok v ∧ v.toNat < 65536) ∨ Raises (reasmValue n) := by
  rw [reasmValue]
  split
  · exact .inr (raises_raise (by decide) ..)
  · refine .inl ⟨_, rfl, ?_⟩
    rw [BitVec.toNat_setWidth]
    omega

theorem mem_allStages (g : Stage) : g ∈ allStages := by cases g <;> decide

theorem runCounts_cases (mode : RunMode) (s : State) :
    (0 < s.chunks.toInt ∧ 0 < s.images.toInt ∧ runEvents s ≤ s.params.evmax ∧ runCounts mode s = runData mode s) ∨
      Raises (runCounts mode s) := by
  rw [runCounts]
  split
  case isTrue => exact .inr (raises_raise (by decide) ..)
  case isFalse hchunks =>
    split
    case isTrue => exact .inr (raises_raise (by decide) ..)
    case isFalse himages =>
      split
      case isTrue => exact .inr (raises_raise (by decide) ..)
      case isFalse hcapacity =>
        exact .inl ⟨Int.not_le.1 hchunks, Int.not_le.1 himages, Nat.not_lt.1 hcapacity, rfl⟩

/-- RUN's checks of the configuration pass exactly as R180 says, or raise. -/
theorem runInput_cases (mode : RunMode) (s : State) :
    (ValidConfig s ∧ runInput mode s = runData mode s) ∨ Raises (runInput mode s) := by
  rw [runInput]
  split
  case isTrue => exact .inr (raises_raise (by decide) ..)
  case isFalse hlayers =>
    rw [not_or, Int.not_lt, Int.not_lt] at hlayers
    split
    case h_1 => exact .inr (raises_raise (by decide) ..)
    case h_2 hvariants =>
      split
      case h_1 => exact .inr (raises_raise (by decide) ..)
      case h_2 hdurations =>
        obtain ⟨hchunks, himages, hcapacity, heq⟩ | hraises := runCounts_cases mode s
        case inr => exact .inr hraises
        case inl =>
          refine .inl ⟨⟨hlayers, fun l hl => ?_, fun g => ?_, hchunks, himages, hcapacity⟩, heq⟩
          · have hcode := List.find?_eq_none.1 hvariants l (List.mem_range.2 hl)
            rwa [decide_eq_true_iff, Nat.not_lt, layerVariant_eq] at hcode
          · have hdur := List.find?_eq_none.1 hdurations g (mem_allStages g)
            rwa [decide_eq_true_iff, Int.not_lt] at hdur

end Sys2Proof.Proofs
end

section
/-! Commands: a command that answers has committed its writes or failed, said once, and what follows for every command
(60_exceptions.md R235 to R237; 10_state.md R31 to R55). -/

namespace Sys2Proof.Proofs

open Sys2Proof.Machine Sys2Proof.Claims

/-! ## What a command commits -/

/-- The writes of the successful command, one constructor for each command of the opcode table. -/
inductive Commits (s : State) : Instr → State → Prop where
  | nop : Commits s .nop s
  | load {rows cols : Nat} (ws : List Operand) (hlen : ws.length = s.params.cells) :
      Commits s (.load rows cols) (commitLoad ws s)
  | compute {len islot oslot : Nat} (xs : List Operand) (ho : oslot < s.params.nslot) :
      Commits s (.compute len islot oslot) (commitCompute oslot xs s)
  | act {var oslot : Nat} (ds : List Dword) (hlen : ds.length = s.params.cols) (ho : oslot < s.params.nslot) :
      Commits s (.act var oslot) { s with mem := Memory.writeDwords s.mem (obufAddr s.params oslot 0) ds }
  | decomp (n : Word) : Commits s .decomp { s with codecNib := n }
  | reasm (v : Word) (hv : v.toNat < 65536) : Commits s .reasm { s with codecOut := v }
  | timing (hconfig : ValidConfig s) : Commits s (.run .timing) (commitSchedule s)
  | data (xs : List Operand) (hconfig : ValidConfig s) (hslots : runSlots s ≤ s.params.nslot) :
      Commits s (.run .data) (commitData xs (commitSchedule s))

theorem readDwords_map_cases {m : Memory} {a n : Nat} (f : Dword → Dword) :
    (∃ ds, (readDwords m a n).map (fun ds => ds.map f) = .ok ds ∧ ds.length = n) ∨
      ∃ off, (readDwords m a n).map (fun ds => ds.map f) = .error (.uninit off) := by
  obtain ⟨ds, hds, hlen⟩ | ⟨off, hoff⟩ := readDwords_cases m a n
  · exact .inl ⟨ds.map f, by rw [hds]; rfl, by rw [List.length_map, hlen]⟩
  · exact .inr ⟨off, by rw [hoff]; rfl⟩

/-- What a command can answer: the state after its commit, the state after error entry, or an uninitialised read. -/
inductive Answers (i : Instr) (s : State) : Result → Prop where
  | commits {u : State} (h : Commits s i u) : Answers i s (.next (succeed u))
  | fails {t : State} (h : FailsTo s t) : Answers i s (.next t)
  | stops (off : Nat) : Answers i s (.fault (.uninitRead off))

theorem Answers.of_raises {α : Type} {i : Instr} {s : State} {r : Except Stop α} {f : α → State} (h : Raises r) :
    Answers i s (finish s (r.map f)) := by
  obtain ⟨t, ht, hfails⟩ := h.finish_map s f
  rw [ht]
  exact .fails hfails

/-- A command whose operands are read in ascending order commits what its reading gives. -/
theorem Answers.of_readOperands {i : Instr} {s : State} {base n : Nat} {f : List Operand → State}
    (h : ∀ xs, xs.length = n → Commits s i (f xs)) : Answers i s (finish s ((readOperands s.mem base n 0).map f)) := by
  obtain ⟨xs, hxs, hlen⟩ | hraises | ⟨off, hoff⟩ := readOperands_cases s.mem base n
  · rw [hxs, finish_map_ok]
    exact .commits (h xs hlen)
  · exact .of_raises hraises
  · rw [hoff]
    exact .stops off

theorem execLoad_answers (rows cols : Nat) (s : State) : Answers (.load rows cols) s (execLoad rows cols s) := by
  rw [execLoad]
  obtain ⟨-, -, heq⟩ | hraises := loadWeights_cases rows cols s
  · rw [heq]
    exact .of_readOperands fun ws hlen => .load ws hlen
  · exact .of_raises hraises

theorem execCompute_answers (len islot oslot : Nat) (s : State) :
    Answers (.compute len islot oslot) s (execCompute len islot oslot s) := by
  rw [execCompute]
  obtain ⟨-, -, -, ho, heq⟩ | hraises := computeInput_cases len islot oslot s
  · rw [heq]
    exact .of_readOperands fun xs _ => .compute xs ho
  · exact .of_raises hraises

theorem execAct_answers (var oslot : Nat) (s : State) : Answers (.act var oslot) s (execAct var oslot s) := by
  rw [execAct]
  obtain ⟨-, ho, v, heq⟩ | hraises := actValues_cases var oslot s
  · obtain ⟨ds, hds, hlen⟩ | ⟨off, hoff⟩ := readDwords_map_cases (m := s.mem) (activate v)
    · rw [heq, readOutput, hds]
      exact .commits (.act ds hlen ho)
    · rw [heq, readOutput, hoff]
      exact .stops off
  · exact .of_raises hraises

theorem execDecomp_answers (s : State) : Answers .decomp s (execDecomp s) := by
  rw [execDecomp]
  obtain ⟨n, hn⟩ | hraises := decompValue_cases s.codecIn
  · rw [hn]
    exact .commits (.decomp n)
  · exact .of_raises hraises

theorem execReasm_answers (s : State) : Answers .reasm s (execReasm s) := by
  rw [execReasm]
  obtain ⟨v, hv, hlt⟩ | hraises := reasmValue_cases s.codecNib
  · rw [hv]
    exact .commits (.reasm v hlt)
  · exact .of_raises hraises

theorem runData_cases (s : State) :
    (s.wvalid = true ∧ runSlots s ≤ s.params.nslot ∧ runData .data s = readInputs s (runSlots s)) ∨
      Raises (runData .data s) := by
  by_cases hw : s.wvalid = true
  · by_cases hslots : runSlots s ≤ s.params.nslot
    · exact .inl ⟨hw, hslots, runData_eq_readInputs hw hslots⟩
    · rw [runData_slots hw (Nat.not_le.1 hslots)]
      exact .inr (raises_raise (by decide) ..)
  · rw [runData_noArray (Bool.eq_false_iff.2 hw)]
    exact .inr (raises_raise (by decide) ..)

theorem execRun_answers (mode : RunMode) (s : State) : Answers (.run mode) s (execRun mode s) := by
  rw [execRun]
  obtain ⟨hconfig, heq⟩ | hraises := runInput_cases mode s
  case inr => exact .of_raises hraises
  case inl =>
    rw [heq]
    cases mode with
    | timing => exact .commits (.timing hconfig)
    | data =>
      obtain ⟨-, hslots, hread⟩ | hraises := runData_cases s
      · rw [hread]
        exact .of_readOperands fun xs _ => .data xs hconfig hslots
      · exact .of_raises hraises

theorem exec_answers (i : Instr) (s : State) : Answers i s (exec i s) := by
  cases i with
  | nop => exact .commits .nop
  | load rows cols => exact execLoad_answers rows cols s
  | compute len islot oslot => exact execCompute_answers len islot oslot s
  | act var oslot => exact execAct_answers var oslot s
  | decomp => exact execDecomp_answers s
  | reasm => exact execReasm_answers s
  | run mode => exact execRun_answers mode s

/-- A command that answers a next state has committed or failed. -/
theorem exec_next {i : Instr} {s t : State} (h : exec i s = .next t) :
    (∃ u, Commits s i u ∧ t = succeed u) ∨ FailsTo s t := by
  have hanswers := exec_answers i s
  rw [h] at hanswers
  cases hanswers with
  | commits hcommits => exact .inl ⟨_, hcommits, rfl⟩
  | fails hfails => exact .inr hfails

/-! ## What no commit changes -/

/-- The registers that only error entry writes (R32 to R35). -/
theorem Commits.keeps_error {s u : State} {i : Instr} (h : Commits s i u) :
    u.err = s.err ∧ u.errCode = s.errCode ∧ u.errOpc = s.errOpc ∧ u.errIndex = s.errIndex ∧
      u.errValue = s.errValue ∧ u.errLimit = s.errLimit := by
  cases h <;> exact ⟨rfl, rfl, rfl, rfl, rfl, rfl⟩

/-- The state but for what commands write: what only the host, a reset or the model's driver changes (R31, R36, R40 to
R44, R55, R56). -/
abbrev SameHostSide (s t : State) : Prop :=
  t.params = s.params ∧ t.doneIe = s.doneIe ∧ t.errIe = s.errIe ∧ t.codecIn = s.codecIn ∧ t.dur = s.dur ∧
    t.chunks = s.chunks ∧ t.images = s.images ∧ t.layers = s.layers ∧ t.actv = s.actv ∧
    t.cmdLatch = s.cmdLatch ∧ t.inputs = s.inputs ∧ t.held = s.held ∧ t.lastResponse = s.lastResponse

theorem Commits.sameHostSide {s u : State} {i : Instr} (h : Commits s i u) : SameHostSide s u := by
  cases h <;> exact ⟨rfl, rfl, rfl, rfl, rfl, rfl, rfl, rfl, rfl, rfl, rfl, rfl, rfl⟩

theorem exec_sameHostSide {i : Instr} {s t : State} (h : exec i s = .next t) : SameHostSide s t := by
  obtain ⟨u, hcommits, rfl⟩ | ⟨code, index, value, limit, -, rfl⟩ := exec_next h
  · exact hcommits.sameHostSide
  · exact ⟨rfl, rfl, rfl, rfl, rfl, rfl, rfl, rfl, rfl, rfl, rfl, rfl, rfl⟩

/-- Settles O38: a commit leaves the error registers, and a failure is error entry. -/
theorem commandsFailFast : Obligations.CommandsFailFast := by
  intro i s t h
  obtain ⟨u, hcommits, rfl⟩ | ⟨code, index, value, limit, hcode, rfl⟩ := exec_next h
  · exact ⟨rfl, rfl, .inl hcommits.keeps_error⟩
  · exact ⟨rfl, rfl, .inr ⟨code, index, value, limit, hcode, rfl⟩⟩

/-- Settles O40: neither a commit nor error entry touches the host's side. -/
theorem commandsKeepHostRegisters : Obligations.CommandsKeepHostRegisters := fun _ _ _ h => exec_sameHostSide h

/-- Settles O42: only LOAD's commit has a write to the array, and it sets WVALID. -/
theorem onlyLoadWritesArray : Obligations.OnlyLoadWritesArray := by
  intro i s t h
  obtain ⟨u, hcommits, rfl⟩ | ⟨code, index, value, limit, -, rfl⟩ := exec_next h
  · cases hcommits with
    | load => exact ⟨fun _ => rfl, fun hi => absurd rfl (hi _ _)⟩
    | nop | compute | act | decomp | reasm | timing | data => exact ⟨id, fun _ => ⟨rfl, rfl, rfl⟩⟩
  · exact ⟨id, fun _ => ⟨rfl, rfl, rfl⟩⟩

/-! ## The bytes a commit writes -/

/-- An output slot lies in OBUF (R10, R66). -/
theorem obufSlot_end {p : Params} (hlegal : p.legal) {oslot : Nat} (ho : oslot < p.nslot) :
    obufAddr p oslot 0 + 8 * p.cols ≤ 0x04000000 + 8 * (p.nslot * p.cols) ∧
      0x04000000 + 8 * (p.nslot * p.cols) ≤ 0x05000000 := by
  obtain ⟨-, ⟨-, hcols⟩, ⟨-, hnslot⟩, -⟩ := hlegal
  have hle : (oslot + 1) * p.cols ≤ p.nslot * p.cols := Nat.mul_le_mul_right _ ho
  have hbound : p.nslot * p.cols ≤ 256 * 2048 := Nat.mul_le_mul hnslot hcols
  rw [Nat.succ_mul] at hle
  rw [obufAddr, Config.obufBase]
  omega

theorem obufBase_le_obufAddr (p : Params) (oslot c : Nat) : 0x04000000 ≤ obufAddr p oslot c := Nat.le_add_right ..

/-- Values written to an output slot leave the bytes below OBUF and above it. -/
theorem readByte_writeDwords_obufSlot {p : Params} (hlegal : p.legal) {oslot : Nat} (ho : oslot < p.nslot) (m : Memory)
    {ds : List Dword} (hlen : ds.length = p.cols) {a : Nat} (ha : a < 0x04000000 ∨ 0x05000000 ≤ a) :
    Memory.readByte (Memory.writeDwords m (obufAddr p oslot 0) ds) a = Memory.readByte m a := by
  obtain ⟨hend, hobuf⟩ := obufSlot_end hlegal ho
  have hbase := obufBase_le_obufAddr p oslot 0
  rw [Memory.readByte_writeDwords_apart]
  rw [hlen]
  omega

/-- The output slots of a data run end below EVLOG. -/
theorem runSlots_end {s : State} (hlegal : s.params.legal) (hslots : runSlots s ≤ s.params.nslot) :
    0x04000000 + 8 * (runSlots s * s.params.cols) ≤ 0x04000000 + 8 * (s.params.nslot * s.params.cols) ∧
      0x04000000 + 8 * (s.params.nslot * s.params.cols) ≤ 0x05000000 := by
  obtain ⟨-, ⟨-, hcols⟩, ⟨-, hnslot⟩, -⟩ := hlegal
  have hle : runSlots s * s.params.cols ≤ s.params.nslot * s.params.cols := Nat.mul_le_mul_right _ hslots
  have hbound : s.params.nslot * s.params.cols ≤ 256 * 2048 := Nat.mul_le_mul hnslot hcols
  omega

theorem Commits.keeps_low {s u : State} {i : Instr} (h : Commits s i u) (hlegal : s.params.legal) {a : Nat}
    (ha : a < 0x04000000) : Memory.readByte u.mem a = Memory.readByte s.mem a := by
  cases h with
  | nop | load | decomp | reasm => rfl
  | compute xs ho => exact readByte_writeDwords_obufSlot hlegal ho _ (by simp) (.inl ha)
  | act ds hlen ho => exact readByte_writeDwords_obufSlot hlegal ho _ hlen (.inl ha)
  | timing => exact readByte_commitSchedule_apart s (.inl (by omega))
  | data xs =>
    rw [readByte_commitData_apart _ _ (.inl ha)]
    exact readByte_commitSchedule_apart s (.inl (by omega))

theorem Commits.keeps_log {s u : State} {i : Instr} (h : Commits s i u) (hlegal : s.params.legal)
    (hi : ∀ m, i ≠ .run m) {a : Nat} (ha : 0x05000000 ≤ a) : Memory.readByte u.mem a = Memory.readByte s.mem a := by
  cases h with
  | nop | load | decomp | reasm => rfl
  | compute xs ho => exact readByte_writeDwords_obufSlot hlegal ho _ (by simp) (.inr ha)
  | act ds hlen ho => exact readByte_writeDwords_obufSlot hlegal ho _ hlen (.inr ha)
  | timing => exact absurd rfl (hi _)
  | data => exact absurd rfl (hi _)

/-- Settles O41: COMPUTE, ACT and a data run write output slots, a run writes the log, and nothing else is written. -/
theorem commandsKeepStagingBuffers : Obligations.CommandsKeepStagingBuffers := by
  intro i s t hlegal h
  obtain ⟨u, hcommits, rfl⟩ | ⟨code, index, value, limit, -, rfl⟩ := exec_next h
  · exact ⟨fun a ha => hcommits.keeps_low hlegal ha, fun hi a ha => hcommits.keeps_log hlegal hi ha⟩
  · exact ⟨fun _ _ => rfl, fun _ _ _ => rfl⟩

end Sys2Proof.Proofs
end

section
/-! Commands: the words a command reads, and that it stops exactly at the first of them that nothing has written
(00_scope.md R15; 41_mac_array.md R144, R147; 42_scheduler.md R180; 43_activation.md R212). -/

namespace Sys2Proof.Proofs

open Sys2Proof.Machine Sys2Proof.Claims

/-- Reading operands stops at an unwritten word exactly if every word before it is an operand. -/
theorem readOperands_eq_uninit (m : Memory) (base n off : Nat) :
    readOperands m base n 0 = .error (.uninit off) ↔
      ∃ j, j < n ∧ off = base + 4 * j ∧ Memory.readWord m (base + 4 * j) = none ∧
        ∀ k, k < j → IsOperand m (base + 4 * k) := by
  constructor
  · intro h
    obtain ⟨j, hj, hbefore, ⟨hnone, hoff⟩ | ⟨w, -, -, hrange⟩⟩ := readOperands_eq_error h
    · rw [Nat.zero_add] at hnone hoff
      rw [Stop.uninit.injEq] at hoff
      exact ⟨j, hj, hoff, hnone, fun k hk => Nat.zero_add k ▸ hbefore k hk⟩
    · cases hrange
  · rintro ⟨j, hj, rfl, hnone, hbefore⟩
    have h := readOperands_unwritten (base := base) (i := 0) hj
      (fun k hk => by rw [Nat.zero_add]; exact hbefore k hk) (by rwa [Nat.zero_add])
    rwa [Nat.zero_add] at h

/-- The right side of CommandsStopOnlyAtUnwrittenWords for a command that reads words 0 to N − 1 of a block from `f 0`
up, on condition P. -/
theorem exists_readsWord_iff {i : Instr} {s : State} {P : Prop} {N : Nat} {f : Nat → Nat}
    (h : ∀ n o, ReadsWord i s n o ↔ P ∧ n < N ∧ o = f n) (off : Nat) :
    (∃ n, ReadsWord i s n off ∧ Memory.readWord s.mem off = none ∧
        ∀ k o, k < n → ReadsWord i s k o → ReadsPast i s.mem o) ↔
      P ∧ ∃ n, n < N ∧ off = f n ∧ Memory.readWord s.mem (f n) = none ∧ ∀ k, k < n → ReadsPast i s.mem (f k) := by
  simp only [h]
  constructor
  · rintro ⟨n, ⟨hP, hn, rfl⟩, hnone, hbefore⟩
    exact ⟨hP, n, hn, rfl, hnone, fun k hk => hbefore k (f k) hk ⟨hP, hk.trans hn, rfl⟩⟩
  · rintro ⟨hP, n, hn, rfl, hnone, hbefore⟩
    refine ⟨n, ⟨hP, hn, rfl⟩, hnone, ?_⟩
    rintro k o hk ⟨-, -, rfl⟩
    exact hbefore k hk

/-- What a command must show of its fault: it comes exactly at the first unwritten word of those it reads. -/
def StopsExactlyAtUnwritten (i : Instr) (s : State) : Prop :=
  ∀ off, exec i s = .fault (.uninitRead off) ↔
    ∃ n, ReadsWord i s n off ∧ Memory.readWord s.mem off = none ∧
      ∀ k o, k < n → ReadsWord i s k o → ReadsPast i s.mem o

/-- A command that reads no word and always answers. -/
theorem stopsExactly_of_reads_nothing {i : Instr} {s : State} (hreads : ∀ n o, ¬ ReadsWord i s n o)
    (h : ∃ t, exec i s = .next t) : StopsExactlyAtUnwritten i s := by
  intro off
  obtain ⟨t, ht⟩ := h
  rw [ht]
  refine ⟨(nomatch ·), ?_⟩
  rintro ⟨n, hread, -⟩
  exact absurd hread (hreads n off)

/-- Checks that pass on condition P and raise an error otherwise stop at an unwritten word only on that condition. -/
theorem checks_eq_uninit_iff {α : Type} {r : Except Stop α} {P Q : Prop} {off : Nat}
    (hpass : P → (r = .error (.uninit off) ↔ Q)) (hcases : P ∨ Raises r) : r = .error (.uninit off) ↔ P ∧ Q := by
  by_cases hP : P
  · rw [hpass hP, and_iff_right hP]
  · exact iff_of_false ((hcases.resolve_left hP).ne_uninit off) fun h => hP h.1

theorem map_eq_error_iff {α β : Type} (r : Except Stop α) (f : α → β) (e : Stop) :
    r.map f = .error e ↔ r = .error e := by
  cases r <;> simp [Except.map]

theorem exec_load_stops (rows cols : Nat) (s : State) : StopsExactlyAtUnwritten (.load rows cols) s := by
  intro off
  rw [exec_load, execLoad, finish_map_fault_iff, exists_readsWord_iff (f := fun n => 0x01000000 + 4 * n)
    (P := rows = s.params.rows ∧ cols = s.params.cols) (N := s.params.rows * s.params.cols)
    (fun n o => by simp only [ReadsWord, and_assoc])]
  refine checks_eq_uninit_iff ?_ ((loadWeights_cases rows cols s).imp_left fun ⟨hrows, hcols, _⟩ => ⟨hrows, hcols⟩)
  rintro ⟨rfl, rfl⟩
  rw [loadWeights_of_shape, readWeights, readOperands_eq_uninit]
  rfl

theorem exec_compute_stops (len islot oslot : Nat) (s : State) :
    StopsExactlyAtUnwritten (.compute len islot oslot) s := by
  intro off
  rw [exec_compute, execCompute, finish_map_fault_iff,
    exists_readsWord_iff (f := fun n => 0x03000000 + 4 * (islot * s.params.rows + n))
      (P := s.wvalid = true ∧ len = s.params.rows ∧ islot < s.params.nslot ∧ oslot < s.params.nslot)
      (N := s.params.rows) (fun n o => by simp only [ReadsWord, and_assoc])]
  refine checks_eq_uninit_iff ?_
    ((computeInput_cases len islot oslot s).imp_left fun ⟨hw, hlen, hi, ho, _⟩ => ⟨hw, hlen, hi, ho⟩)
  rintro ⟨hw, rfl, hi, ho⟩
  rw [computeInput_of_checks hw hi ho, readInput, readOperands_eq_uninit]
  simp only [ibufAddr_add]
  rfl

theorem exec_act_stops (var oslot : Nat) (s : State) : StopsExactlyAtUnwritten (.act var oslot) s := by
  intro off
  rw [exec_act, execAct, finish_map_fault_iff,
    exists_readsWord_iff (f := fun n => 0x04000000 + 8 * (oslot * s.params.cols) + 4 * n)
      (P := var ≤ 1 ∧ oslot < s.params.nslot) (N := 2 * s.params.cols)
      (fun n o => by simp only [ReadsWord, and_assoc])]
  refine checks_eq_uninit_iff ?_ ((actValues_cases var oslot s).imp_left fun ⟨hvar, ho, _⟩ => ⟨hvar, ho⟩)
  rintro ⟨hvar, ho⟩
  obtain ⟨v, hv⟩ := variantOf_of_le hvar
  rw [actValues_of_checks hv ho, map_eq_error_iff, readOutput, readDwords_eq_error]
  simp only [Stop.uninit.injEq]
  rfl

theorem exec_runData_stops (s : State) : StopsExactlyAtUnwritten (.run .data) s := by
  intro off
  rw [exec_run, execRun, finish_map_fault_iff, exists_readsWord_iff (f := fun n => 0x03000000 + 4 * n)
    (P := ValidConfig s ∧ s.wvalid = true ∧ runSlots s ≤ s.params.nslot) (N := runSlots s * s.params.rows)
    (fun n o => by simp only [ReadsWord, and_assoc]; rfl)]
  refine checks_eq_uninit_iff ?_ ?_
  · rintro ⟨hconfig, hw, hslots⟩
    rw [runInput_eq_runData hconfig, runData_eq_readInputs hw hslots, readInputs, readOperands_eq_uninit]
    rfl
  · obtain ⟨hconfig, heq⟩ | hraises := runInput_cases .data s
    · rw [heq]
      exact (runData_cases s).imp_left fun ⟨hw, hslots, _⟩ => ⟨hconfig, hw, hslots⟩
    · exact .inr hraises

/-- A command whose checks give a value or raise an error answers. -/
theorem finish_map_answers {α : Type} {r : Except Stop α} (h : (∃ x, r = .ok x) ∨ Raises r) (s : State)
    (f : α → State) : ∃ t, finish s (r.map f) = .next t := by
  obtain ⟨x, rfl⟩ | hraises := h
  · exact ⟨_, rfl⟩
  · obtain ⟨t, ht, -⟩ := hraises.finish_map s f
    exact ⟨t, ht⟩

theorem exec_decomp_next (s : State) : ∃ t, exec .decomp s = .next t :=
  finish_map_answers (decompValue_cases s.codecIn) s _

theorem exec_reasm_next (s : State) : ∃ t, exec .reasm s = .next t :=
  finish_map_answers ((reasmValue_cases s.codecNib).imp_left fun ⟨v, hv, _⟩ => ⟨v, hv⟩) s _

theorem exec_runTiming_next (s : State) : ∃ t, exec (.run .timing) s = .next t :=
  finish_map_answers ((runInput_cases .timing s).imp_left fun ⟨_, heq⟩ => ⟨[], heq⟩) s _

theorem exec_stops (i : Instr) (s : State) : StopsExactlyAtUnwritten i s := by
  cases i with
  | nop => exact stopsExactly_of_reads_nothing (fun _ _ => id) ⟨_, rfl⟩
  | load rows cols => exact exec_load_stops rows cols s
  | compute len islot oslot => exact exec_compute_stops len islot oslot s
  | act var oslot => exact exec_act_stops var oslot s
  | decomp => exact stopsExactly_of_reads_nothing (fun _ _ => id) (exec_decomp_next s)
  | reasm => exact stopsExactly_of_reads_nothing (fun _ _ => id) (exec_reasm_next s)
  | run mode =>
    cases mode with
    | timing => exact stopsExactly_of_reads_nothing (fun _ _ => id) (exec_runTiming_next s)
    | data => exact exec_runData_stops s

/-- A command answers or stops at an unwritten word. -/
theorem exec_next_or_uninit (i : Instr) (s : State) :
    (∃ t, exec i s = .next t) ∨ ∃ off, exec i s = .fault (.uninitRead off) := by
  have hanswers := exec_answers i s
  cases h : exec i s with
  | next t => exact .inl ⟨t, rfl⟩
  | fault r =>
    rw [h] at hanswers
    cases hanswers with
    | stops off => exact .inr ⟨off, rfl⟩
  | refused r =>
    rw [h] at hanswers
    cases hanswers

/-- Settles O39: each command's checks come before its reading, and the reading stops at the first word that decides. -/
theorem commandsStopOnlyAtUnwrittenWords : Obligations.CommandsStopOnlyAtUnwrittenWords := fun i s =>
  ⟨exec_next_or_uninit i s, exec_stops i s⟩

end Sys2Proof.Proofs
end

section
/-! Registers: the offset of each register, and the places that accesses reach (10_state.md R22 to R45; 20_memory.md
R62, R70). -/

namespace Sys2Proof.Proofs

open Sys2Proof.Machine Sys2Proof.Claims

/-! ## Offsets -/

/-- The offset of a control register (R23). -/
def regOffset : Reg → Nat
  | .id => 0x000 | .paramRc => 0x004 | .paramMem => 0x008 | .paramEv => 0x00C
  | .cmd => 0x010 | .status => 0x014 | .ctrl => 0x018 | .ie => 0x01C
  | .errCode => 0x020 | .errIndex => 0x024 | .errValue => 0x028 | .errLimit => 0x02C
  | .codecIn => 0x030 | .codecNib => 0x034 | .codecOut => 0x038 | .evcount => 0x03C
  | .dur g => 0x040 + 4 * stageNumber g
  | .chunks => 0x054 | .images => 0x058 | .layers => 0x05C | .actv => 0x060

theorem registerAt_regOffset (r : Reg) : registerAt (regOffset r) = some r := by
  cases r with
  | dur g => cases g <;> rfl
  | _ => rfl

theorem regOffset_of_registerAt {off : Nat} {r : Reg} (h : registerAt off = some r) : off = regOffset r := by
  have hmap : ∀ x ∈ registerMap, x.1 = regOffset x.2 := by decide
  rw [registerAt, List.lookup_eq_some_iff] at h
  obtain ⟨before, after, hmem, -⟩ := h
  exact hmap (off, r) (by rw [hmem]; simp)

theorem registerAt_eq_some_iff {off : Nat} {r : Reg} : registerAt off = some r ↔ off = regOffset r :=
  ⟨regOffset_of_registerAt, fun h => h ▸ registerAt_regOffset r⟩

theorem regOffset_le (r : Reg) : regOffset r ≤ 0x060 := by
  cases r with
  | dur g => cases g <;> decide
  | _ => decide

theorem regOffset_aligned (r : Reg) : regOffset r % 4 = 0 := by
  cases r with
  | dur g => cases g <;> decide
  | _ => decide

theorem exists_registerAt {off : Nat} (hle : off ≤ 0x060) (h4 : off % 4 = 0) : ∃ r, registerAt off = some r := by
  have hall : ∀ off, off < 0x061 → off % 4 = 0 → (registerAt off).isSome = true := by decide
  exact Option.isSome_iff_exists.1 (hall off (by omega) h4)

/-! ## What registers read as -/

theorem statusWord_eq (s : State) :
    statusWord s = BitVec.ofNat 32 (s.busy.toNat + 2 * s.done.toNat + 4 * s.err.toNat + 8 * s.wvalid.toNat) := by
  have hall : ∀ b d e w : Bool, 0#28 ++ BitVec.ofBool w ++ BitVec.ofBool e ++ BitVec.ofBool d ++ BitVec.ofBool b =
      BitVec.ofNat 32 (b.toNat + 2 * d.toNat + 4 * e.toNat + 8 * w.toNat) := by decide
  exact hall ..

theorem ieWord_eq (s : State) : ieWord s = BitVec.ofNat 32 (s.doneIe.toNat + 2 * s.errIe.toNat) := by
  have hall : ∀ d e : Bool, 0#30 ++ BitVec.ofBool e ++ BitVec.ofBool d = BitVec.ofNat 32 (d.toNat + 2 * e.toNat) := by
    decide
  exact hall ..

theorem errorNumber_toNat (c : ErrorCode) : (errorNumber c).toNat = codeNumber c := by cases c <;> rfl

theorem errCodeWord_eq (s : State) :
    errCodeWord s = BitVec.ofNat 32 (s.errOpc.toNat * 256 + codeNumber s.errCode) := by
  rw [← errorNumber_toNat, ← errCodeWord_toNat, BitVec.ofNat_toNat, BitVec.setWidth_eq]

theorem paramRc_eq (s : State) :
    readReg s .paramRc = BitVec.ofNat 32 (s.params.cols % 2 ^ 16 * 2 ^ 16 + s.params.rows % 2 ^ 16) := by
  apply BitVec.eq_of_toNat_eq
  simp only [readReg, toNat_append_eq_add, BitVec.toNat_ofNat]
  omega

theorem paramMem_eq (s : State) : readReg s .paramMem = BitVec.ofNat 32 (0x10300000 + s.params.nslot % 2 ^ 16) := by
  apply BitVec.eq_of_toNat_eq
  simp only [readReg, Config.operandWidth, Config.accWidth, toNat_append_eq_add, BitVec.toNat_ofNat]
  omega

/-- A register reads as the arithmetic of R24 to R44 says. -/
theorem registerWord_regOffset (s : State) (r : Reg) : registerWord s (regOffset r) = some (readReg s r) := by
  cases r with
  | paramRc => rw [paramRc_eq]; rfl
  | paramMem => rw [paramMem_eq]; rfl
  | status => rw [readReg, statusWord_eq]; rfl
  | ie => rw [readReg, ieWord_eq]; rfl
  | errCode => rw [readReg, errCodeWord_eq]; rfl
  | dur g => cases g <;> rfl
  | _ => rfl

theorem exists_regOffset_of_registerWord {s : State} {off : Nat} {v : Word} (h : registerWord s off = some v) :
    ∃ r, off = regOffset r := by
  have hbounds : off ≤ 0x060 ∧ off % 4 = 0 := by
    unfold registerWord at h
    split at h
    case h_26 => cases h
    all_goals decide
  obtain ⟨r, hr⟩ := exists_registerAt hbounds.1 hbounds.2
  exact ⟨r, regOffset_of_registerAt hr⟩

@[simp] theorem readReg_takeInputs (rest : List Input) (s : State) (r : Reg) :
    readReg (takeInputs rest s) r = readReg s r := by
  cases r <;> rfl

/-! ## Places -/

theorem isWordAccess_iff (a : Access) : isWordAccess a = true ↔ a.size = 2#2 ∧ a.addr.toNat % 4 = 0 := by
  rw [isWordAccess, Bool.and_eq_true, decide_eq_true_iff, decide_eq_true_iff]

theorem inUse_iff (base words off : Nat) : inUse base words off = true ↔ base ≤ off ∧ off < base + 4 * words := by
  rw [inUse, Bool.and_eq_true, decide_eq_true_iff, decide_eq_true_iff]

theorem inHostRam_iff (p : Params) (off : Nat) :
    inHostRam p off = true ↔ (0x01000000 ≤ off ∧ off < 0x01000000 + 4 * (p.rows * p.cols)) ∨
      (0x03000000 ≤ off ∧ off < 0x03000000 + 4 * (p.nslot * p.rows)) ∨
      (0x04000000 ≤ off ∧ off < 0x04000000 + 8 * (p.nslot * p.cols)) := by
  rw [inHostRam, Bool.or_eq_true, Bool.or_eq_true, inUse_iff, inUse_iff, inUse_iff, Config.wbufBase, Config.ibufBase,
    Config.obufBase, or_assoc, show 4 * (p.nslot * p.cols * 2) = 8 * (p.nslot * p.cols) by omega]

theorem inWarr_iff (p : Params) (off : Nat) :
    inWarr p off = true ↔ 0x02000000 ≤ off ∧ off < 0x02000000 + 4 * (p.rows * p.cols) := inUse_iff ..

theorem inEvlog_iff (p : Params) (off : Nat) :
    inEvlog p off = true ↔ 0x05000000 ≤ off ∧ off < 0x05000000 + 32 * p.evmax := by
  rw [inEvlog, inUse_iff, Config.evlogBase, show 4 * (p.evmax * 8) = 32 * p.evmax by omega]

theorem placeOf_eq_none_of_not_word (p : Params) {a : Access} (h : ¬ isWordAccess a = true) : placeOf p a = none :=
  if_neg h

theorem placeOf_of_word (p : Params) {a : Access} (h : isWordAccess a = true) :
    placeOf p a = placeAt p a.addr.toNat := if_pos h

theorem placeAt_ram {p : Params} {off : Nat} (h : inHostRam p off = true) : placeAt p off = some (.ram off) := by
  have hlow : ¬ off < 0x1000 := by
    rw [inHostRam_iff] at h
    omega
  rw [placeAt, if_neg hlow, if_pos h]

/-- With legal parameters the array's window is apart from the RAM (R10, R62). -/
theorem placeAt_warr {p : Params} (hlegal : p.legal) {off : Nat} (h : inWarr p off = true) :
    placeAt p off = some (.warr ((off - 0x02000000) / 4)) := by
  obtain ⟨⟨-, hrows⟩, ⟨-, hcols⟩, -, -⟩ := hlegal
  have hcells : p.rows * p.cols ≤ 2048 * 2048 := Nat.mul_le_mul hrows hcols
  have hwarr := (inWarr_iff p off).1 h
  have hram : ¬ inHostRam p off = true := by
    rw [inHostRam_iff]
    omega
  have hlow : ¬ off < 0x1000 := by omega
  rw [placeAt, if_neg hlow, if_neg hram, if_pos h]

/-- With legal parameters the log is apart from the RAM and the array's window (R10, R62). -/
theorem placeAt_log {p : Params} (hlegal : p.legal) {off : Nat} (h : inEvlog p off = true) :
    placeAt p off = some (.log off) := by
  obtain ⟨⟨-, hrows⟩, ⟨-, hcols⟩, ⟨-, hnslot⟩, -⟩ := hlegal
  have hcells : p.rows * p.cols ≤ 2048 * 2048 := Nat.mul_le_mul hrows hcols
  have hin : p.nslot * p.rows ≤ 256 * 2048 := Nat.mul_le_mul hnslot hrows
  have hout : p.nslot * p.cols ≤ 256 * 2048 := Nat.mul_le_mul hnslot hcols
  have hlog := (inEvlog_iff p off).1 h
  have hram : ¬ inHostRam p off = true := by
    rw [inHostRam_iff]
    omega
  have hwarr : ¬ inWarr p off = true := by
    rw [inWarr_iff]
    omega
  have hlow : ¬ off < 0x1000 := by omega
  rw [placeAt, if_neg hlow, if_neg hram, if_neg hwarr, if_pos h]

/-- Something stands at an aligned offset exactly where the map says (R23, R62). -/
theorem placeAt_isSome_iff (p : Params) {off : Nat} (h4 : off % 4 = 0) :
    (placeAt p off).isSome = true ↔ Mapped p off := by
  rw [Mapped, placeAt, Config.csrEnd]
  split
  case isTrue hlow =>
    rw [Option.isSome_map]
    constructor
    · intro h
      obtain ⟨r, hr⟩ := Option.isSome_iff_exists.1 h
      exact .inl (regOffset_of_registerAt hr ▸ regOffset_le r)
    · intro h
      obtain ⟨r, hr⟩ := exists_registerAt (off := off) (by omega) h4
      rw [hr]
      rfl
  case isFalse hlow =>
    have hram := inHostRam_iff p off
    have hwarr := inWarr_iff p off
    have hlog := inEvlog_iff p off
    split
    case isTrue h => exact iff_of_true rfl (by have := hram.1 h; omega)
    case isFalse h1 =>
      split
      case isTrue h => exact iff_of_true rfl (by have := hwarr.1 h; omega)
      case isFalse h2 =>
        split
        case isTrue h => exact iff_of_true rfl (by have := hlog.1 h; omega)
        case isFalse h3 =>
          rw [hram] at h1
          rw [hwarr] at h2
          rw [hlog] at h3
          exact iff_of_false Bool.false_ne_true (by omega)

/-- A word access reaches a register at the register's offset. -/
theorem placeOf_regOffset (p : Params) {a : Access} {r : Reg} (hsize : a.size = 2#2) (h : a.addr.toNat = regOffset r) :
    placeOf p a = some (.reg r) := by
  have hle := regOffset_le r
  have h4 := regOffset_aligned r
  exact placeOf_register p ((isWordAccess_iff a).2 ⟨hsize, by omega⟩) (by omega) (registerAt_eq_some_iff.2 h)

end Sys2Proof.Proofs
end

section
/-! Host accesses: what the step that completes one does, for each kind of place (20_memory.md R62 to R71). -/

namespace Sys2Proof.Proofs

open Sys2Proof.Machine Sys2Proof.Claims

theorem step_offers {s : State} {a : Access} {rest : List Input} (h : Offers s a rest) :
    step s = performAccess a (takeInputs rest s) := by
  obtain ⟨hbusy, hheld, hinputs⟩ := h
  exact step_offered hbusy hheld hinputs

/-- An access that may pass a running command completes at once, whether one runs or not. -/
theorem step_passing {s : State} {a : Access} {rest : List Input} (hheld : s.held = none)
    (hinputs : s.inputs = .access a :: rest) (hpass : passesBusy a = true) :
    step s = performAccess a (takeInputs rest s) := by
  rw [step_access hinputs hheld, offerAccess_passes hpass]

theorem performAccess_readReg {s : State} {a : Access} {r : Reg} (hd : a.dir = .read) (hsize : a.size = 2#2)
    (h : a.addr.toNat = regOffset r) : performAccess a s = .next (respond (.data (readReg s r)) s) :=
  performAccess_read (placeOf_regOffset _ hsize h) hd rfl

theorem performAccess_writeReg {s : State} {off : BitVec 32} {r : Reg} (v : Word) (h : off.toNat = regOffset r) :
    performAccess (writeAccess off v) s = .next (respond .written (writeReg v s r)) :=
  performAccess_write (placeOf_regOffset _ rfl h) rfl

/-- A word access to RAM. -/
theorem placeOf_ram {p : Params} {a : Access} (hword : isWordAccess a = true) (h : inHostRam p a.addr.toNat = true) :
    placeOf p a = some (.ram a.addr.toNat) := (placeOf_of_word p hword).trans (placeAt_ram h)

/-! ## Bus errors -/

theorem performAccess_eq_busError_iff (s : State) (a : Access) :
    performAccess a s = .fault (.busError a 0#32) ↔ placeOf s.params a = none := by
  refine ⟨fun h => ?_, performAccess_busError⟩
  by_contra hplace
  obtain ⟨pl, hpl⟩ := Option.ne_none_iff_exists'.1 hplace
  cases hd : a.dir with
  | write =>
    rw [performAccess_write hpl hd] at h
    cases h
  | read =>
    cases hv : readPlace s pl with
    | some v =>
      rw [performAccess_read hpl hd hv] at h
      cases h
    | none =>
      rw [performAccess_read_uninit hpl hd hv] at h
      cases h

/-- Settles O45: an access has no place exactly if it is no aligned word access or the map has nothing there. -/
theorem busErrorsExactly : Obligations.BusErrorsExactly := by
  intro s a rest hoffers
  rw [step_offers hoffers, performAccess_eq_busError_iff, takeInputs_params]
  by_cases hword : isWordAccess a = true
  · obtain ⟨hsize, h4⟩ := (isWordAccess_iff a).1 hword
    rw [placeOf_of_word _ hword, ← Option.not_isSome_iff_eq_none, placeAt_isSome_iff _ h4]
    exact ⟨fun h => .inr (.inr h), fun h => (h.resolve_left (not_not.2 hsize)).resolve_left (not_not.2 h4)⟩
  · rw [isWordAccess_iff, not_and_or] at hword
    exact iff_of_true (if_neg (by rwa [isWordAccess_iff, not_and_or])) (hword.imp_right .inl)

/-! ## Reads -/

/-- Settles O46: a read that completes only answers; a register answers what R24 to R44 say, a word of a buffer what
memory holds. -/
theorem readsHaveNoSideEffect : Obligations.ReadsHaveNoSideEffect := by
  refine ⟨fun s t a rest hoffers hd h => ?_, fun s a rest hoffers hd hsize => ⟨fun v hv => ?_, fun hlegal h4 hin => ?_⟩⟩
  · rw [step_offers hoffers] at h
    obtain ⟨pl, -, ⟨-, v, -, rfl⟩ | ⟨hwrite, -⟩⟩ := performAccess_next h
    · exact ⟨v, rfl⟩
    · rw [hd] at hwrite
      cases hwrite
  · obtain ⟨r, hr⟩ := exists_regOffset_of_registerWord hv
    rw [hr, registerWord_regOffset, Option.some.injEq] at hv
    rw [step_offers hoffers, performAccess_readReg hd hsize hr, readReg_takeInputs, hv]
    rfl
  · have hword : isWordAccess a = true := (isWordAccess_iff a).2 ⟨hsize, h4⟩
    have hplace : ∃ pl, placeOf s.params a = some pl ∧
        ∀ u : State, readPlace u pl = Memory.readWord u.mem a.addr.toNat := by
      rw [placeOf_of_word _ hword]
      by_cases hlog : inEvlog s.params a.addr.toNat = true
      · exact ⟨_, placeAt_log hlegal hlog, fun _ => rfl⟩
      · have hram : inHostRam s.params a.addr.toNat = true := by
          rw [inEvlog_iff] at hlog
          rw [inHostRam_iff]
          omega
        exact ⟨_, placeAt_ram hram, fun _ => rfl⟩
    obtain ⟨pl, hpl, hread⟩ := hplace
    rw [step_offers hoffers]
    exact ⟨fun v hv => performAccess_read hpl hd ((hread _).trans hv),
      fun hnone => performAccess_read_uninit hpl hd ((hread _).trans hnone)⟩

/-- Settles O48: STATUS may be read at any time. -/
theorem statusReadsFourFlags : Obligations.StatusReadsFourFlags := by
  intro s rest hheld hinputs
  rw [step_passing hheld hinputs (by decide), performAccess_readReg (r := .status) rfl rfl rfl, readReg_takeInputs,
    readReg, statusWord_eq]
  rfl

/-! ## Writes -/

theorem getLsbD_eq_decide (v : Word) (i : Nat) : v.getLsbD i = decide (v.toNat / 2 ^ i % 2 = 1) := by
  rw [BitVec.getLsbD, Nat.testBit_eq_decide_div_mod_eq]

theorem step_statusWrite {s : State} {v : Word} {rest : List Input} (hheld : s.held = none)
    (hinputs : s.inputs = .access (writeAccess 0x014#32 v) :: rest) :
    step s = .next (respond .written (clearFlags v (takeInputs rest s))) := by
  rw [step_passing hheld hinputs (passesBusy_statusWrite v), performAccess_writeReg (r := .status) v rfl]
  rfl

theorem step_ieWrite {s : State} {v : Word} {rest : List Input} (hheld : s.held = none)
    (hinputs : s.inputs = .access (writeAccess 0x01C#32 v) :: rest) :
    step s = .next { s with
      doneIe := decide (v.toNat % 2 = 1), errIe := decide (v.toNat / 2 % 2 = 1)
      inputs := rest, lastResponse := some .written } := by
  rw [step_passing hheld hinputs (passesBusy_ieWrite v), performAccess_writeReg (r := .ie) v rfl, writeReg,
    getLsbD_eq_decide, getLsbD_eq_decide, Nat.pow_zero, Nat.div_one, Nat.pow_one]
  rfl

/-- A flag stays set exactly if the bit that clears it is 0. -/
theorem and_not_getLsbD_iff (b : Bool) (v : Word) (i : Nat) :
    (b && !v.getLsbD i) = true ↔ b = true ∧ v.toNat / 2 ^ i % 2 = 0 := by
  rw [getLsbD_eq_decide, Bool.and_eq_true, Bool.not_eq_true', decide_eq_false_iff_not, Nat.mod_two_not_eq_one]

/-- Settles O47: writing 1 clears. -/
theorem statusWriteClearsByOnes : Obligations.StatusWriteClearsByOnes := by
  intro s v rest hheld hinputs
  exact ⟨_, step_statusWrite hheld hinputs, rfl, and_not_getLsbD_iff s.done v 1, and_not_getLsbD_iff s.err v 2⟩

/-- Settles O53: the step of a CMD write is its acceptance. -/
theorem commandWriteSetsBusy : Obligations.CommandWriteSetsBusy := by
  intro s v rest hoffers
  rw [step_commandWrite hoffers]
  rfl

end Sys2Proof.Proofs
end

section
/-! Host accesses: the busy hold (20_memory.md R68, R74) and the access kinds of the registers and buffers (10_state.md
R22; 20_memory.md R63 to R67). -/

namespace Sys2Proof.Proofs

open Sys2Proof.Machine Sys2Proof.Claims

/-! ## The busy hold -/

/-- An access that passes a running command reaches a register. -/
theorem register_of_passesBusy {a : Access} (h : passesBusy a = true) :
    a.size = 2#2 ∧ ∃ r, a.addr.toNat = regOffset r := by
  rw [passesBusy, Bool.and_eq_true, isWordAccess_iff] at h
  obtain ⟨⟨hsize, -⟩, hmatch⟩ := h
  cases hr : registerAt a.addr.toNat with
  | some r => exact ⟨hsize, r, regOffset_of_registerAt hr⟩
  | none =>
    rw [hr] at hmatch
    cases hd : a.dir <;> rw [hd] at hmatch <;> cases hmatch

theorem addr_eq_of_registerAt {a : Access} {r : Reg} {off : BitVec 32} (h : registerAt a.addr.toNat = some r)
    (hoff : regOffset r = off.toNat) : a.addr = off :=
  BitVec.eq_of_toNat_eq ((regOffset_of_registerAt h).trans hoff)

/-- The accesses that pass a running command are those that R68 lists. -/
theorem passesBusy_iff (a : Access) : passesBusy a = true ↔ PassesWhileBusy a := by
  constructor
  · intro h
    refine ⟨(register_of_passesBusy h).1, ?_⟩
    rw [passesBusy, Bool.and_eq_true] at h
    obtain ⟨-, hmatch⟩ := h
    split at hmatch
    case h_1 hd hr => exact .inl ⟨hd, .inl (addr_eq_of_registerAt hr rfl)⟩
    case h_2 hd hr => exact .inl ⟨hd, .inr (.inl (addr_eq_of_registerAt hr rfl))⟩
    case h_3 hd hr => exact .inl ⟨hd, .inr (.inr (.inl (addr_eq_of_registerAt hr rfl)))⟩
    case h_4 hd hr => exact .inl ⟨hd, .inr (.inr (.inr (.inl (addr_eq_of_registerAt hr rfl))))⟩
    case h_5 hr =>
      have haddr : a.addr = 0x014#32 := addr_eq_of_registerAt hr rfl
      cases hd : a.dir with
      | read => exact .inl ⟨rfl, .inr (.inr (.inr (.inr (.inl haddr))))⟩
      | write => exact .inr ⟨rfl, .inl haddr⟩
    case h_6 hr =>
      have haddr : a.addr = 0x01C#32 := addr_eq_of_registerAt hr rfl
      cases hd : a.dir with
      | read => exact .inl ⟨rfl, .inr (.inr (.inr (.inr (.inr haddr))))⟩
      | write => exact .inr ⟨rfl, .inr haddr⟩
    case h_7 => cases hmatch
  · rintro ⟨hsize, ⟨hd, haddr | haddr | haddr | haddr | haddr | haddr⟩ | ⟨hd, haddr | haddr⟩⟩ <;>
    · rw [passesBusy, isWordAccess, hsize, hd, haddr]
      rfl

/-- Settles O43: R68's list is what passes, and of it the reads answer their registers. -/
theorem busyHoldsAllButListed : Obligations.BusyHoldsAllButListed := by
  refine ⟨fun s a rest hbusy hheld hinputs => ⟨fun hnot => ?_, fun hpass hd => ?_⟩, fun s v rest hheld =>
    ⟨step_ieWrite hheld, fun hinputs => ?_⟩⟩
  · have hblocked : passesBusy a = false := Bool.eq_false_iff.2 (mt (passesBusy_iff a).1 hnot)
    rw [step_access hinputs hheld, offerAccess_held (by rwa [takeInputs_busy]) hblocked]
    rfl
  · have hpasses := (passesBusy_iff a).2 hpass
    obtain ⟨hsize, r, hr⟩ := register_of_passesBusy hpasses
    refine ⟨readReg s r, by rw [hr, registerWord_regOffset], ?_⟩
    rw [step_passing hheld hinputs hpasses, performAccess_readReg hd hsize hr, readReg_takeInputs]
    rfl
  · rw [step_passing hheld hinputs (by decide), performAccess_readReg (r := .ie) rfl rfl rfl, readReg_takeInputs,
      readReg, ieWord_eq]
    rfl

/-- Settles O44: both steps perform the access on the state that holds none. -/
theorem heldAccessCompletesNext : Obligations.HeldAccessCompletesNext := by
  intro s a hbusy hheld
  have hoffered : ∀ rest, step { s with held := none, inputs := .access a :: rest } =
      performAccess a (releaseHeld (takeInputs rest s)) := fun rest =>
    step_offered (s := { s with held := none, inputs := .access a :: rest }) hbusy rfl rfl
  refine ⟨fun hinputs => ?_, fun rest hinputs => ?_⟩
  · have hdevice : step s = deviceStep s := by
      obtain hnil | ⟨b, later, hcons⟩ := hinputs
      · exact step_nil hnil
      · exact step_access_waiting hcons hheld
    rw [hoffered, hdevice, deviceStep_held hbusy hheld]
    rfl
  · rw [hoffered, step_elapse hinputs, deviceStep_held (by rwa [takeInputs_busy]) (by rwa [takeInputs_held])]

/-! ## Read-write registers -/

/-- The registers that keep all bits written to them (R22, R36, R37, R40 to R44). -/
inductive IsPlain : Reg → Prop where
  | codecIn : IsPlain .codecIn
  | codecNib : IsPlain .codecNib
  | dur (g : Stage) : IsPlain (.dur g)
  | chunks : IsPlain .chunks
  | images : IsPlain .images
  | layers : IsPlain .layers
  | actv : IsPlain .actv

theorem exists_isPlain {off : Nat} (h : off = 0x030 ∨ off = 0x034 ∨ (0x040 ≤ off ∧ off ≤ 0x060 ∧ off % 4 = 0)) :
    ∃ r, off = regOffset r ∧ IsPlain r := by
  obtain h | h | h | h | h | h | h | h | h | h | h : off = 0x030 ∨ off = 0x034 ∨ off = 0x040 ∨ off = 0x044 ∨
      off = 0x048 ∨ off = 0x04C ∨ off = 0x050 ∨ off = 0x054 ∨ off = 0x058 ∨ off = 0x05C ∨ off = 0x060 := by omega
  · exact ⟨.codecIn, h, .codecIn⟩
  · exact ⟨.codecNib, h, .codecNib⟩
  · exact ⟨.dur .fetch, h, .dur .fetch⟩
  · exact ⟨.dur .compute, h, .dur .compute⟩
  · exact ⟨.dur .activate, h, .dur .activate⟩
  · exact ⟨.dur .transfer, h, .dur .transfer⟩
  · exact ⟨.dur .detect, h, .dur .detect⟩
  · exact ⟨.chunks, h, .chunks⟩
  · exact ⟨.images, h, .images⟩
  · exact ⟨.layers, h, .layers⟩
  · exact ⟨.actv, h, .actv⟩

theorem readReg_writeReg_same {r : Reg} (h : IsPlain r) (v : Word) (s : State) : readReg (writeReg v s r) r = v := by
  cases h with
  | dur g => exact PerStage.get_set_same ..
  | _ => rfl

theorem readReg_writeReg_other {r q : Reg} (h : IsPlain r) (v : Word) (s : State) (hne : r ≠ q) :
    readReg (writeReg v s r) q = readReg s q := by
  cases h with
  | codecIn => cases q with | codecIn => exact absurd rfl hne | _ => rfl
  | codecNib => cases q with | codecNib => exact absurd rfl hne | _ => rfl
  | dur g =>
    cases q with
    | dur g' => exact PerStage.get_set_other _ _ fun heq => hne (heq ▸ rfl)
    | _ => rfl
  | chunks => cases q with | chunks => exact absurd rfl hne | _ => rfl
  | images => cases q with | images => exact absurd rfl hne | _ => rfl
  | layers => cases q with | layers => exact absurd rfl hne | _ => rfl
  | actv => cases q with | actv => exact absurd rfl hne | _ => rfl

/-- A write of such a register changes no field but those registers. -/
theorem writeReg_plain_frame {r : Reg} (h : IsPlain r) (v : Word) (s : State) :
    writeReg v s r = { s with
      codecIn := (writeReg v s r).codecIn, codecNib := (writeReg v s r).codecNib, dur := (writeReg v s r).dur
      chunks := (writeReg v s r).chunks, images := (writeReg v s r).images, layers := (writeReg v s r).layers
      actv := (writeReg v s r).actv } := by
  cases h <;> rfl

@[simp] theorem readReg_respond (x : Response) (s : State) (r : Reg) : readReg (respond x s) r = readReg s r := by
  cases r <;> rfl

/-- An access offered right after a step that answered a write. -/
theorem offers_after_write {s : State} {a b : Access} {rest : List Input} {t : State}
    (h : Offers s a (.access b :: rest)) (hbusy : t.busy = s.busy) (hheld : t.held = s.held)
    (hinputs : t.inputs = .access b :: rest) : Offers t b rest := by
  obtain ⟨hidle, hnone, -⟩ := h
  exact ⟨hbusy.trans hidle, hheld.trans hnone, hinputs⟩

/-- Settles O49: the register at the offset takes the word and keeps it. -/
theorem writableRegistersReadBack : Obligations.WritableRegistersReadBack := by
  intro s off v rest hoff hoffers
  have hoff' : off.toNat = 0x030 ∨ off.toNat = 0x034 ∨ (0x040 ≤ off.toNat ∧ off.toNat ≤ 0x060 ∧ off.toNat % 4 = 0) :=
    hoff.imp (congrArg _) (Or.imp_left (congrArg _))
  obtain ⟨r, hr, hplain⟩ := exists_isPlain hoff'
  have hframe := writeReg_plain_frame hplain v (takeInputs (.access (readAccess off) :: rest) s)
  generalize hw : writeReg v (takeInputs (.access (readAccess off) :: rest) s) r = w at hframe
  have hsame : readReg w r = v := by rw [← hw, readReg_writeReg_same hplain]
  have hother : ∀ q, r ≠ q → readReg w q = readReg s q := by
    intro q hne
    rw [← hw, readReg_writeReg_other hplain v _ hne, readReg_takeInputs]
  have hnext : Offers (respond .written w) (readAccess off) rest :=
    offers_after_write hoffers (by rw [hframe]; rfl) (by rw [hframe]; rfl) (by rw [hframe]; rfl)
  refine ⟨respond .written w, respond (.data v) (takeInputs rest (respond .written w)), ?_, ?_, rfl, fun q hq => ?_, ?_⟩
  · rw [step_offers hoffers, performAccess_writeReg v hr, hw]
  · rw [step_offers hnext, performAccess_readReg (a := readAccess off) rfl rfl hr, readReg_takeInputs, readReg_respond,
      hsame]
  · rw [readReg_respond, readReg_takeInputs, readReg_respond]
    exact hother q fun heq => hq (registerAt_eq_some_iff.2 (heq ▸ hr))
  · conv_lhs => rw [hframe]
    rfl

/-! ## Read-only places -/

/-- The registers that ignore writes (R22, R24 to R26, R32 to R35, R38, R39). -/
inductive IsReadOnly : Reg → Prop where
  | id : IsReadOnly .id
  | paramRc : IsReadOnly .paramRc
  | paramMem : IsReadOnly .paramMem
  | paramEv : IsReadOnly .paramEv
  | errCode : IsReadOnly .errCode
  | errIndex : IsReadOnly .errIndex
  | errValue : IsReadOnly .errValue
  | errLimit : IsReadOnly .errLimit
  | codecOut : IsReadOnly .codecOut
  | evcount : IsReadOnly .evcount

theorem exists_isReadOnly {off : Nat} (h4 : off % 4 = 0)
    (h : off < 0x010 ∨ (0x020 ≤ off ∧ off < 0x030) ∨ off = 0x038 ∨ off = 0x03C) :
    ∃ r, off = regOffset r ∧ IsReadOnly r := by
  obtain h | h | h | h | h | h | h | h | h | h : off = 0x000 ∨ off = 0x004 ∨ off = 0x008 ∨ off = 0x00C ∨
      off = 0x020 ∨ off = 0x024 ∨ off = 0x028 ∨ off = 0x02C ∨ off = 0x038 ∨ off = 0x03C := by omega
  · exact ⟨.id, h, .id⟩
  · exact ⟨.paramRc, h, .paramRc⟩
  · exact ⟨.paramMem, h, .paramMem⟩
  · exact ⟨.paramEv, h, .paramEv⟩
  · exact ⟨.errCode, h, .errCode⟩
  · exact ⟨.errIndex, h, .errIndex⟩
  · exact ⟨.errValue, h, .errValue⟩
  · exact ⟨.errLimit, h, .errLimit⟩
  · exact ⟨.codecOut, h, .codecOut⟩
  · exact ⟨.evcount, h, .evcount⟩

/-- A write that leaves the state answers normally and does nothing else. -/
theorem step_ignoredWrite {s : State} {off : BitVec 32} {v : Word} {rest : List Input} {pl : Place}
    (hoffers : Offers s (writeAccess off v) rest) (hplace : placeOf s.params (writeAccess off v) = some pl)
    (h : ∀ u : State, writePlace v u pl = u) :
    step s = .next { s with inputs := rest, lastResponse := some .written } := by
  rw [step_offers hoffers, performAccess_write (s := takeInputs rest s) hplace rfl]
  exact congrArg (fun u => Host.Outcome.next (respond .written u)) (h _)

theorem isWordAccess_writeAccess {off : BitVec 32} (h4 : off.toNat % 4 = 0) (v : Word) :
    isWordAccess (writeAccess off v) = true := (isWordAccess_iff _).2 ⟨rfl, h4⟩

theorem isWordAccess_readAccess {off : BitVec 32} (h4 : off.toNat % 4 = 0) :
    isWordAccess (readAccess off) = true := (isWordAccess_iff _).2 ⟨rfl, h4⟩

/-- Settles O50: a write to each of these places leaves the state. -/
theorem readOnlyWritesIgnored : Obligations.ReadOnlyWritesIgnored := by
  intro s off v rest hlegal h4 hoff hoffers
  have hword := isWordAccess_writeAccess h4 v
  by_cases hwarr : inWarr s.params off.toNat = true
  · exact step_ignoredWrite hoffers ((placeOf_of_word _ hword).trans (placeAt_warr hlegal hwarr)) fun _ => rfl
  by_cases hlog : inEvlog s.params off.toNat = true
  · exact step_ignoredWrite hoffers ((placeOf_of_word _ hword).trans (placeAt_log hlegal hlog)) fun _ => rfl
  rw [inWarr_iff] at hwarr
  rw [inEvlog_iff] at hlog
  obtain ⟨r, hr, hreadOnly⟩ := exists_isReadOnly h4 (by omega)
  exact step_ignoredWrite hoffers (placeOf_regOffset _ rfl hr) fun u => by cases hreadOnly <;> rfl

/-! ## Buffers and the array's window -/

theorem readWord_writeWords_single (m : Memory) (a : Nat) (v : Word) :
    Memory.readWord (Memory.writeWords m a [v]) a = some v :=
  Memory.readWord_writeWords m a [v] (i := 0) Nat.one_pos

theorem step_ramWrite {s : State} {off : BitVec 32} {v : Word} {rest : List Input}
    (hoffers : Offers s (writeAccess off v) rest) (h4 : off.toNat % 4 = 0)
    (hram : inHostRam s.params off.toNat = true) :
    step s = .next { s with
      mem := Memory.writeWords s.mem off.toNat [v], inputs := rest, lastResponse := some .written } := by
  rw [step_offers hoffers, performAccess_write (s := takeInputs rest s)
    (placeOf_ram (isWordAccess_writeAccess h4 v) hram) rfl]
  rfl

theorem step_ramRead {s : State} {off : BitVec 32} {v : Word} {rest : List Input}
    (hoffers : Offers s (readAccess off) rest) (h4 : off.toNat % 4 = 0) (hram : inHostRam s.params off.toNat = true)
    (hv : Memory.readWord s.mem off.toNat = some v) :
    step s = .next { s with inputs := rest, lastResponse := some (.data v) } := by
  rw [step_offers hoffers, performAccess_read (s := takeInputs rest s) (placeOf_ram (isWordAccess_readAccess h4) hram)
    rfl hv]
  rfl

/-- Settles O51: the write stores one word, which the next read finds. -/
theorem bufferWriteStoresOneWord : Obligations.BufferWriteStoresOneWord := by
  intro s off v rest hlegal h4 hoff hoffers
  have hram : inHostRam s.params off.toNat = true := (inHostRam_iff ..).2 hoff
  exact ⟨_, step_ramWrite hoffers h4 hram, rfl,
    step_ramRead (offers_after_write hoffers rfl rfl rfl) h4 hram (readWord_writeWords_single s.mem off.toNat v),
    fun a ha => Memory.readByte_writeWords_apart _ _ _ ha⟩

/-- Settles O52: the window is apart from the registers and the RAM, and a loaded array has all its cells. -/
theorem warrReadsLoadedCells : Obligations.WarrReadsLoadedCells := by
  intro s i rest hlegal hcoherent hi hoffers
  obtain ⟨⟨-, hrows⟩, ⟨-, hcols⟩, -, -⟩ := id hlegal
  have hcells : s.params.rows * s.params.cols ≤ 2048 * 2048 := Nat.mul_le_mul hrows hcols
  have hoff : (BitVec.ofNat 32 (0x02000000 + 4 * i)).toNat = 0x02000000 + 4 * i := by
    rw [BitVec.toNat_ofNat, Nat.mod_eq_of_lt (by omega)]
  have hword := isWordAccess_readAccess (off := BitVec.ofNat 32 (0x02000000 + 4 * i)) (by omega)
  have hwarr : inWarr s.params (BitVec.ofNat 32 (0x02000000 + 4 * i)).toNat = true := by
    rw [inWarr_iff]
    omega
  have hplace : placeOf s.params (readAccess (BitVec.ofNat 32 (0x02000000 + 4 * i))) = some (.warr i) := by
    rw [placeOf_of_word _ hword]
    refine (placeAt_warr hlegal hwarr).trans ?_
    rw [hoff, Nat.add_sub_cancel_left, Nat.mul_div_cancel_left _ (by decide)]
  rw [step_offers hoffers]
  refine ⟨fun hw => performAccess_read hplace rfl ?_, fun hw => ?_⟩
  · have hcell : i < s.warr.length := by rwa [hcoherent.loaded hw]
    rw [readPlace, takeInputs_wvalid, takeInputs_warr, if_pos hw, List.getElem?_eq_getElem hcell, Option.map_some,
      List.getD_eq_getElem _ _ hcell]
  · refine (performAccess_read_uninit (s := takeInputs rest s) hplace rfl ?_).trans
      (congrArg (fun off => Host.Outcome.fault (Fault.uninitRead off)) hoff)
    rw [readPlace, takeInputs_wvalid, hw, if_neg Bool.false_ne_true]

end Sys2Proof.Proofs
end

section
/-! The step: time passing, both resets and the interrupt line (20_memory.md R68; 60_exceptions.md R240;
70_reset_and_hazards.md R270 to R280). -/

namespace Sys2Proof.Proofs

open Sys2Proof.Machine Sys2Proof.Claims

/-! ## Time passing -/

theorem deviceStep_decoded {s : State} {i : Instr} (hbusy : s.busy = true) (hdecode : decode s.cmdLatch = .ok i) :
    deviceStep s = exec i s := by
  rw [deviceStep_busy hbusy, runLatched_decoded hdecode]

theorem tableWord_of_lt {w : Nat} (h : w < 2 ^ 32) : tableWord 32 w = BitVec.ofNat 32 w := by
  rw [tableWord, Nat.mod_eq_of_lt h]

/-- Settles O6: each of these steps lets time pass, and with BUSY set that runs the latch. -/
theorem stepRunsLatchedCommand : Obligations.StepRunsLatchedCommand := by
  refine ⟨fun s i hbusy hdecode => ⟨fun rest hinputs => ?_, fun hinputs => ?_, fun a b rest hinputs hheld => ?_⟩,
    fun s w i hw hdecode => ?_⟩
  · exact (step_elapse hinputs).trans (deviceStep_decoded (s := takeInputs rest s) hbusy hdecode)
  · exact (step_nil hinputs).trans (deviceStep_decoded hbusy hdecode)
  · exact (step_access_waiting hinputs hheld).trans (deviceStep_decoded hbusy hdecode)
  · rw [← tableWord_of_lt hw] at hdecode ⊢
    exact (step_elapse (s := s.withFetchWord 32 w) rfl).trans
      (deviceStep_decoded (s := takeInputs s.inputs (s.withFetchWord 32 w)) rfl hdecode)

/-- A command that answers has ended. -/
theorem exec_next_ended {i : Instr} {s t : State} (h : exec i s = .next t) : t.busy = false ∧ t.done = true := by
  obtain ⟨hdone, hbusy, -⟩ := commandsFailFast i s t h
  exact ⟨hbusy, hdone⟩

/-- Settles O60: the step runs the latch, and a command answers or stops at an unwritten word it reads. -/
theorem startedCommandCompletes : Obligations.StartedCommandCompletes := by
  intro s hbusy hinputs
  have hstep : step s = runLatched s := (step_nil hinputs).trans (deviceStep_busy hbusy)
  rw [hstep]
  cases hdecode : decode s.cmdLatch with
  | error e => exact .inl ⟨_, by rw [runLatched_rejected hdecode, execIllegal_eq], rfl, rfl⟩
  | ok i =>
    rw [runLatched_decoded hdecode]
    obtain ⟨t, ht⟩ | ⟨off, hoff⟩ := exec_next_or_uninit i s
    · exact .inl ⟨t, ht, exec_next_ended ht⟩
    · obtain ⟨n, hread, hnone, -⟩ := (exec_stops i s off).1 hoff
      exact .inr ⟨i, n, off, rfl, hread, hnone, hoff⟩

/-! ## Resets -/

/-- Settles O54: soft reset and hardware reset give every register the same value. -/
theorem softResetClearsRegisters : Obligations.SoftResetClearsRegisters := by
  intro s v rest hoffers
  refine ⟨_, (step_offers hoffers).trans (performAccess_writeReg (r := .ctrl) v rfl), fun hv => ?_, fun hv => ?_⟩
  · have hbit : v.getLsbD 0 = false := by rw [getLsbD_eq_decide, Nat.pow_zero, Nat.div_one, hv]; rfl
    rw [writeReg, hbit, if_neg Bool.false_ne_true]
    rfl
  · have hbit : v.getLsbD 0 = true := by rw [getLsbD_eq_decide, Nat.pow_zero, Nat.div_one, hv]; rfl
    rw [writeReg, if_pos hbit]
    refine ⟨fun r => ?_, rfl, rfl, rfl, rfl, rfl, rfl, rfl, rfl, rfl, rfl⟩
    rw [readReg_respond]
    cases r <;> rfl

/-- Settles O55: legal parameters fit their fields. -/
theorem resetRegisterValues : Obligations.ResetRegisterValues := by
  intro p hlegal r
  obtain ⟨⟨-, hrows⟩, ⟨-, hcols⟩, ⟨-, hnslot⟩, -⟩ := hlegal
  cases r with
  | paramRc => rw [paramRc_eq, State.resetOf_params, Nat.mod_eq_of_lt (by omega), Nat.mod_eq_of_lt (by omega)]
  | paramMem => rw [paramMem_eq, State.resetOf_params, Nat.mod_eq_of_lt (by omega)]
  | status => rw [readReg, statusWord_eq]; rfl
  | ie => rw [readReg, ieWord_eq]; rfl
  | errCode => exact (by decide : 0#20 ++ 0#4 ++ errorNumber .none = 0#32)
  | dur g => cases g <;> rfl
  | _ => rfl

/-- Settles O56: the state after the step is that after power-on but for the events to come. -/
theorem hardwareResetAbortsAndClears : Obligations.HardwareResetAbortsAndClears := by
  intro s rest hinputs
  exact ⟨_, step_hardwareReset hinputs, rfl, rfl, rfl, rfl, rfl, fun r => by cases r <;> rfl, fun _ => rfl,
    fun _ => rfl⟩

/-! ## The interrupt line -/

theorem irq_iff (s : State) :
    irq s = true ↔ (s.done = true ∧ s.doneIe = true) ∨ (s.err = true ∧ s.errIe = true) := by
  rw [irq, Bool.or_eq_true, Bool.and_eq_true, Bool.and_eq_true]

/-- Settles O57: the line is a function of the flags and the enables, of which a command, a STATUS write and an IE write
change the ones their lemmas say. -/
theorem irqFollowsEnabledFlags : Obligations.IrqFollowsEnabledFlags := by
  refine ⟨irq_iff, fun i s t h => ?_, fun s v rest hheld => ⟨fun hinputs => ?_, fun hinputs => ?_⟩⟩
  · obtain ⟨-, hdoneIe, herrIe, -⟩ := exec_sameHostSide h
    obtain ⟨-, hdone⟩ := exec_next_ended h
    rw [irq_iff, hdone, hdoneIe, herrIe, eq_self, true_and]
  · refine ⟨_, step_statusWrite hheld hinputs, ?_⟩
    have hdone : (s.done && !v.getLsbD 1) = true ↔ s.done = true ∧ v.toNat / 2 % 2 = 0 := and_not_getLsbD_iff s.done v 1
    have herr : (s.err && !v.getLsbD 2) = true ↔ s.err = true ∧ v.toNat / 4 % 2 = 0 := and_not_getLsbD_iff s.err v 2
    rw [irq_iff, respond_done, respond_err, respond_doneIe, respond_errIe, clearFlags_done, clearFlags_err,
      clearFlags_doneIe, clearFlags_errIe, takeInputs_done, takeInputs_err, takeInputs_doneIe, takeInputs_errIe, hdone,
      herr, and_assoc, and_assoc]
  · refine ⟨_, step_ieWrite hheld hinputs, ?_⟩
    rw [irq_iff]
    simp only [decide_eq_true_eq]

end Sys2Proof.Proofs
end

section
/-! The invariant: it holds after hardware reset, and every command, every host access and so every step keeps it
(10_state.md R46 to R56; 20_memory.md R62, R68). -/

namespace Sys2Proof.Proofs

open Sys2Proof.Machine Sys2Proof.Claims

/-! ## Reset -/

theorem resetOf_inv {p : Params} (hlegal : p.legal) : (State.resetOf p).Inv where
  legal := hlegal
  memCanonical := .nil
  memMapped _ h := nomatch h
  array := ⟨rfl, (nomatch ·)⟩
  accumulators := List.length_replicate ..
  occupancy := Nat.zero_le _
  logFits := Nat.zero_le _
  logWritten _ _ h _ := absurd h (Nat.not_lt_zero _)
  codecOut := Nat.two_pow_pos 16
  errorNamed := (nomatch ·)
  heldBlocked _ h := nomatch h

/-- Settles O58: nothing is stored, and every field the invariant speaks of is 0 or empty. -/
theorem resetSatisfiesInvariant : Obligations.ResetSatisfiesInvariant :=
  ⟨fun _ => resetOf_inv, resetOf_inv (by decide)⟩

/-! ## Updates that the invariant does not see -/

theorem hardwareReset_inv {s : State} (h : s.Inv) (later : List Input) : (hardwareReset later s).Inv :=
  { resetOf_inv h.legal with array := ⟨rfl, (nomatch ·)⟩ }

theorem softReset_inv {s : State} (h : s.Inv) : (softReset s).Inv :=
  { h with
    array := ⟨h.array.nibbles, (nomatch ·)⟩
    logFits := Nat.zero_le _
    logWritten := fun _ _ hn _ => absurd hn (Nat.not_lt_zero _)
    codecOut := Nat.two_pow_pos 16
    errorNamed := (nomatch ·) }

/-! ## Updates of the flags and of the host's side -/

theorem takeInputs_inv {s : State} (h : s.Inv) (rest : List Input) : (takeInputs rest s).Inv :=
  { h with array := ⟨h.array.nibbles, h.array.loaded⟩ }

theorem respond_inv {s : State} (h : s.Inv) (x : Response) : (respond x s).Inv :=
  { h with array := ⟨h.array.nibbles, h.array.loaded⟩ }

theorem releaseHeld_inv {s : State} (h : s.Inv) : (releaseHeld s).Inv :=
  { h with array := ⟨h.array.nibbles, h.array.loaded⟩, heldBlocked := fun _ hnone => nomatch hnone }

theorem holdAccess_inv {s : State} (h : s.Inv) {a : Access} (ha : passesBusy a = false) : (holdAccess a s).Inv :=
  { h with
    array := ⟨h.array.nibbles, h.array.loaded⟩
    heldBlocked := fun _ hb => Option.some.inj hb ▸ ha }

theorem succeed_inv {s : State} (h : s.Inv) : (succeed s).Inv :=
  { h with array := ⟨h.array.nibbles, h.array.loaded⟩ }

theorem failed_inv {s : State} (h : s.Inv) {code : ErrorCode} (hcode : code ≠ .none) (index value limit : Word) :
    (failed code index value limit s).Inv :=
  { h with array := ⟨h.array.nibbles, h.array.loaded⟩, errorNamed := fun _ => hcode }

theorem clearFlags_inv {s : State} (h : s.Inv) (v : Word) : (clearFlags v s).Inv :=
  { h with
    array := ⟨h.array.nibbles, h.array.loaded⟩
    errorNamed := fun herr => h.errorNamed (Bool.and_eq_true _ _ ▸ herr).1 }

/-- No write of a register breaks the invariant: the registers it speaks of are read-only (R32, R38, R39). -/
theorem writeReg_inv {s : State} (h : s.Inv) (v : Word) (r : Reg) : (writeReg v s r).Inv := by
  cases r with
  | status => exact clearFlags_inv h v
  | ctrl =>
    rw [writeReg]
    split
    · exact softReset_inv h
    · exact h
  | _ => exact { h with array := ⟨h.array.nibbles, h.array.loaded⟩ }

/-! ## Writes to memory -/

theorem readByte_writeBytes_isSome {m : Memory} {x : Nat} (h : (Memory.readByte m x).isSome = true) (a : Nat)
    (bs : List Byte) : (Memory.readByte (Memory.writeBytes m a bs) x).isSome = true := by
  rw [Memory.readByte_writeBytes]
  split
  · rw [List.getElem?_eq_getElem (by omega)]
    rfl
  · exact h

theorem readWord_isSome_iff (m : Memory) (a : Nat) :
    (Memory.readWord m a).isSome = true ↔
      (Memory.readByte m a).isSome = true ∧ (Memory.readByte m (a + 1)).isSome = true ∧
      (Memory.readByte m (a + 2)).isSome = true ∧ (Memory.readByte m (a + 3)).isSome = true := by
  rw [Memory.readWord]
  split
  case h_1 h0 h1 h2 h3 => simp [h0, h1, h2, h3]
  case h_2 hmissing =>
    refine iff_of_false Bool.false_ne_true ?_
    simp only [Option.isSome_iff_exists]
    rintro ⟨⟨b0, h0⟩, ⟨b1, h1⟩, ⟨b2, h2⟩, ⟨b3, h3⟩⟩
    exact hmissing b0 b1 b2 b3 h0 h1 h2 h3

/-- A written word stays written. -/
theorem readWord_writeWords_isSome {m : Memory} {x : Nat} (h : (Memory.readWord m x).isSome = true) (a : Nat)
    (ws : List Word) : (Memory.readWord (Memory.writeWords m a ws) x).isSome = true := by
  rw [readWord_isSome_iff] at h ⊢
  obtain ⟨h0, h1, h2, h3⟩ := h
  exact ⟨readByte_writeBytes_isSome h0 .., readByte_writeBytes_isSome h1 .., readByte_writeBytes_isSome h2 ..,
    readByte_writeBytes_isSome h3 ..⟩

/-- A block written inside the RAM of the host keeps what the invariant says of memory (R62). -/
theorem writeWords_inv {s : State} (h : s.Inv) (a : Nat) (ws : List Word)
    (hram : ∀ x, a ≤ x → x < a + 4 * ws.length → inHostRam s.params x = true) :
    ({ s with mem := Memory.writeWords s.mem a ws } : State).Inv :=
  { h with
    array := ⟨h.array.nibbles, h.array.loaded⟩
    memCanonical := Memory.wf_writeWords h.memCanonical a ws
    memMapped := fun c hc => (Memory.mem_writeWords hc).elim (h.memMapped c) fun hin => .inl (hram c.1 hin.1 hin.2)
    logWritten := fun n k hn hk => readWord_writeWords_isSome (h.logWritten n k hn hk) a ws }

theorem writeDwords_inv {s : State} (h : s.Inv) (a : Nat) (ds : List Dword)
    (hram : ∀ x, a ≤ x → x < a + 8 * ds.length → inHostRam s.params x = true) :
    ({ s with mem := Memory.writeDwords s.mem a ds } : State).Inv :=
  writeWords_inv h a _ fun x hlow hhigh => hram x hlow (by rw [flatMap_dwordWords_length] at hhigh; omega)

theorem inHostRam_of_obuf {p : Params} {x : Nat} (hlow : 0x04000000 ≤ x)
    (hhigh : x < 0x04000000 + 8 * (p.nslot * p.cols)) :
    inHostRam p x = true := (inHostRam_iff p x).2 (.inr (.inr ⟨hlow, hhigh⟩))

/-- The values of one output slot. -/
theorem writeDwords_obufSlot_inv {s : State} (h : s.Inv) {oslot : Nat} (ho : oslot < s.params.nslot) {ds : List Dword}
    (hlen : ds.length = s.params.cols) :
    ({ s with mem := Memory.writeDwords s.mem (obufAddr s.params oslot 0) ds } : State).Inv := by
  have hend := (obufSlot_end h.legal ho).1
  have hbase := obufBase_le_obufAddr s.params oslot 0
  exact writeDwords_inv h _ ds fun x hlow hhigh => inHostRam_of_obuf (by omega) (by omega)

/-! ## Commands -/

theorem commitLoad_inv {s : State} (h : s.Inv) {ws : List Operand} (hlen : ws.length = s.params.cells) :
    (commitLoad ws s).Inv :=
  { h with array := ⟨rfl, fun _ => hlen⟩ }

theorem commitCompute_inv {s : State} (h : s.Inv) {oslot : Nat} (ho : oslot < s.params.nslot) (xs : List Operand) :
    (commitCompute oslot xs s).Inv :=
  { writeDwords_obufSlot_inv h ho (ds := outputs (mac s xs)) (by simp) with
    array := ⟨h.array.nibbles, h.array.loaded⟩
    accumulators := length_mac s xs }

theorem lastTimeline_occ_le {s : State} (hconfig : ValidConfig s) :
    (lastTimeline startTimeline (runSchedule s)).occ ≤ 1 := by
  rw [lastTimeline]
  split
  case h_1 e he => exact (schedule_bufferBound _ _ _ (ValidConfig.layers_toNat hconfig).1 e (List.mem_of_getLast? he)).1
  case h_2 => exact Nat.zero_le 1

/-- The log of a valid configuration fits in EVLOG, and all its words are written (R180, R184). -/
theorem commitSchedule_inv {s : State} (h : s.Inv) (hconfig : ValidConfig s) : (commitSchedule s).Inv := by
  have hcount : (commitSchedule s).evcount.toNat = (runSchedule s).length := ctx_length_runSchedule h.legal hconfig
  have hfits : (runSchedule s).length ≤ s.params.evmax := (length_runSchedule s).trans_le hconfig.capacity
  exact { h with
    array := ⟨h.array.nibbles, h.array.loaded⟩
    memCanonical := Memory.wf_writeWords h.memCanonical _ _
    memMapped := fun c hc => (Memory.mem_writeWords hc).elim (h.memMapped c) fun hin => .inr <| by
      rw [length_logWords, Config.evlogBase] at hin
      rw [commitSchedule_params, inEvlog_iff]
      omega
    occupancy := lastTimeline_occ_le hconfig
    logFits := hcount.trans_le hfits
    logWritten := fun n k hn hk => by
      rw [hcount] at hn
      rw [readWord_commitSchedule_evlogAddr s hn hk, List.getElem?_eq_getElem (by rw [length_logWords]; omega)]
      rfl }

theorem commitData_inv {s : State} (h : s.Inv) (hslots : runSlots s ≤ s.params.nslot) (xs : List Operand) :
    (commitData xs s).Inv := by
  have hend := (runSlots_end h.legal hslots).1
  have hmem : ({ s with mem := Memory.writeDwords s.mem Config.obufBase (runOutputs s xs) } : State).Inv :=
    writeDwords_inv h _ _ fun x hlow hhigh => by
      rw [length_runOutputs] at hhigh
      exact inHostRam_of_obuf hlow (hhigh.trans_le hend)
  exact { hmem with
    array := ⟨h.array.nibbles, h.array.loaded⟩
    accumulators := length_mac s _ }

/-- What a command commits keeps the invariant. -/
theorem Commits.inv {s u : State} {i : Instr} (hcommits : Commits s i u) (h : s.Inv) : u.Inv := by
  cases hcommits with
  | nop => exact h
  | load ws hlen => exact commitLoad_inv h hlen
  | compute xs ho => exact commitCompute_inv h ho xs
  | act ds hlen ho => exact writeDwords_obufSlot_inv h ho hlen
  | decomp n => exact { h with array := ⟨h.array.nibbles, h.array.loaded⟩ }
  | reasm v hv => exact { h with array := ⟨h.array.nibbles, h.array.loaded⟩, codecOut := hv }
  | timing hconfig => exact commitSchedule_inv h hconfig
  | data xs hconfig hslots => exact commitData_inv (commitSchedule_inv h hconfig) hslots xs

theorem exec_inv {i : Instr} {s t : State} (h : s.Inv) (hexec : exec i s = .next t) : t.Inv := by
  obtain ⟨u, hcommits, rfl⟩ | ⟨code, index, value, limit, hcode, rfl⟩ := exec_next hexec
  · exact succeed_inv (hcommits.inv h)
  · exact failed_inv h hcode index value limit

theorem runLatched_inv {s t : State} (h : s.Inv) (hrun : runLatched s = .next t) : t.Inv := by
  cases hdecode : decode s.cmdLatch with
  | ok i => exact exec_inv h ((runLatched_decoded hdecode).symm.trans hrun)
  | error e =>
    rw [runLatched_rejected hdecode, execIllegal_eq, Host.Outcome.next.injEq, failCommand_eq_failed] at hrun
    exact hrun ▸ failed_inv h (by decide : ErrorCode.illegal ≠ .none) _ _ _

/-! ## Host accesses -/

/-- The words of RAM that the host writes are whole, aligned words in use. -/
theorem placeOf_eq_ram {p : Params} {a : Access} {off : Nat} (h : placeOf p a = some (.ram off)) :
    off % 4 = 0 ∧ inHostRam p off = true := by
  by_cases hword : isWordAccess a = true
  · have h4 := ((isWordAccess_iff a).1 hword).2
    rw [placeOf_of_word p hword, placeAt] at h
    split at h
    · rw [Option.map_eq_some_iff] at h
      obtain ⟨r, -, hr⟩ := h
      cases hr
    · split at h
      · rename_i hram
        cases h
        exact ⟨h4, hram⟩
      · split at h
        · cases h
        · split at h <;> cases h
  · rw [placeOf_eq_none_of_not_word p hword] at h
    cases h

/-- The four bytes of an aligned word in RAM are all in RAM, as every region is a whole number of words. -/
theorem inHostRam_word {p : Params} {off x : Nat} (h4 : off % 4 = 0) (h : inHostRam p off = true) (hlow : off ≤ x)
    (hhigh : x < off + 4) : inHostRam p x = true := by
  rw [inHostRam_iff] at h ⊢
  omega

theorem writePlace_inv {s : State} (h : s.Inv) {a : Access} {pl : Place} (hplace : placeOf s.params a = some pl)
    (v : Word) : (writePlace v s pl).Inv := by
  cases pl with
  | reg r => exact writeReg_inv h v r
  | ram off =>
    obtain ⟨h4, hram⟩ := placeOf_eq_ram hplace
    exact writeWords_inv h off [v] fun x hlow hhigh => inHostRam_word h4 hram hlow hhigh
  | warr i => exact h
  | log off => exact h

theorem performAccess_inv {s t : State} {a : Access} (h : s.Inv) (hperform : performAccess a s = .next t) : t.Inv := by
  obtain ⟨pl, hplace, ⟨-, v, -, rfl⟩ | ⟨-, rfl⟩⟩ := performAccess_next hperform
  · exact respond_inv h _
  · exact respond_inv (writePlace_inv h hplace _) _

/-! ## The step -/

/-- Settles O59: a step is a reset, the completion of the latched command, an access, a hold or nothing, and each keeps
the invariant. -/
theorem stepKeepsInvariant : Obligations.StepKeepsInvariant := by
  intro s t h hstep
  obtain ⟨rest, -, hreset⟩ | ⟨u, hu, hcases⟩ := step_cases s
  · cases hreset.symm.trans hstep
    exact hardwareReset_inv h rest
  · have huInv : u.Inv := by
      obtain rfl | ⟨x, rest, -, rfl⟩ := hu
      · exact h
      · exact takeInputs_inv h rest
    obtain ⟨-, hrun⟩ | ⟨a, -, -, haccess⟩ | ⟨a, -, hblocked, hhold⟩ | ⟨-, hidle⟩ := hcases
    · exact runLatched_inv huInv (hrun.symm.trans hstep)
    · exact performAccess_inv (releaseHeld_inv huInv) (haccess.symm.trans hstep)
    · cases hhold.symm.trans hstep
      exact holdAccess_inv huInv hblocked
    · cases hidle.symm.trans hstep
      exact huInv

end Sys2Proof.Proofs
end
